-- ==== Sys2Proof/Word.lean ====
section
/-! DEFINITION. The register word and the byte of CORE (spec/20_memory.md R84, R86). -/

namespace Sys2Proof

/-- A register, latch or command word: 32 bits, bit 0 least significant (R9, R84). -/
abbrev Word := BitVec 32

/-- One byte of a word as a host bridge sees it (R86). -/
abbrev Byte := BitVec 8

/-- A byte offset inside the 256-byte register window (R81). -/
abbrev Offset := BitVec 8

end Sys2Proof
end

