-- ==== Sys2Proof/Syntax.lean ====
section
/-! DEFINITION. The syntax CORE reads and its host writes: the five commands, the named registers, bus accesses,
platform events, and the host assembler's lines (spec/30_encoding.md, spec/20_memory.md R84). -/

namespace Sys2Proof

/-- The commands, one constructor per row of spec/opcode_table.json. A command word has no operand fields (R121), so no
constructor has an argument. -/
inductive Instr where
  /-- NOP, R255. -/
  | nop
  /-- INIT, R257. -/
  | init
  /-- SETP, R261. -/
  | setp
  /-- PROC, R265. -/
  | proc
  /-- RESET, R270. -/
  | reset
deriving DecidableEq, Repr

/-- The names of the register map of R84, in the order of their offsets. -/
inductive RegName where
  | cmd | status
  | pFs | pCut | pRes | pWta | pWtb | pWtc | pWtd | pWte | pIn
  | out | afs | acut | ares
  | b0 | b1 | a1 | rg
  | wta | wtb | wtc | wtd | wte
  | s1pi | s1po | s2pi | s2po | s3pi | s3po | s4pi | s4po | fbr
  | cgain | epshz | ecmd
deriving DecidableEq, Repr

/-- One bus access that reached CORE: the offset is the address's bits 7:0 (R81), the size is in bytes (R12, R82). -/
inductive Access where
  /-- `MemRead(BASE+off, size)`. -/
  | read (off : Offset) (size : Nat)
  /-- `MemWrite(BASE+off, size, data)`. -/
  | write (off : Offset) (size : Nat) (data : Word)
deriving DecidableEq, Repr

/-- What the platform can do to CORE: deliver an access, or assert and release the hardware reset (R340). -/
inductive PlatformEvent where
  | access (a : Access)
  | hwReset
deriving DecidableEq, Repr

/-- The response of an access (R12). -/
inductive RespCode where
  | okay
  | busErr
deriving DecidableEq, Repr

/-- What the host gets back from one access: a read returns a word and a response, a write a response (R12). -/
inductive Response where
  | readDone (code : RespCode) (data : Word)
  | writeDone (code : RespCode)
deriving DecidableEq, Repr

/-- A word as the host assembler writes it (R126). -/
inductive Literal where
  /-- `0x…`: the raw pattern. -/
  | raw (v : Word)
  /-- `f:` and a decimal: the number `num / 10^places`, negated when `neg`. -/
  | decimal (neg : Bool) (num places : Nat)
  /-- `f:nan`. -/
  | nan
  /-- `f:+inf`. -/
  | posInf
  /-- `f:-inf`. -/
  | negInf
deriving DecidableEq, Repr

/-- One line of a host program (R126). -/
inductive AsmLine where
  | wr (r : RegName) (v : Literal)
  | rd (r : RegName)
  | command (i : Instr)
deriving DecidableEq, Repr

/-- The pseudo-instructions (R127); `initStream` is the spec's `initialize`. -/
inductive PseudoOp where
  | initStream (fs : Literal)
  | setparams (cut res a b c d e : Literal)
  | process (x : Literal)
  | clrerr
deriving DecidableEq, Repr

end Sys2Proof
end

