-- ==== Sys2Proof/WellFormed.lean ====
section
/-! DEFINITION. Well-formed syntax: which accesses CORE accepts (spec/20_memory.md R82, R83, R85) and which fields a
command word has (spec/30_encoding.md R120, R124). -/

namespace Sys2Proof

/-- A command carries no operand, so every command is well formed (R121). -/
def Instr.wellFormed : Instr → Bool
  | .nop => true
  | .init => true
  | .setp => true
  | .proc => true
  | .reset => true

/-- The offset of an access. -/
def Access.off : Access → Offset
  | .read off _ => off
  | .write off _ _ => off

/-- The size of an access, in bytes. -/
def Access.size : Access → Nat
  | .read _ size => size
  | .write _ size _ => size

/-- Only 4-byte accesses are accepted (R82). -/
def Access.sizeOk (a : Access) : Bool := a.size == 4

/-- An access is aligned when bits 1:0 of its offset are 0 (R83). -/
def Access.aligned (a : Access) : Bool := a.off.toNat % 4 == 0

/-- Offsets 0x90 and above are unmapped (R85). -/
def Access.mapped (a : Access) : Bool := a.off.toNat < 0x90

/-- The accesses that get response OKAY: word-sized, aligned and mapped (R82, R83, R85). -/
def Access.wellFormed (a : Access) : Bool := a.sizeOk && a.aligned && a.mapped

/-- A word that is a command: RSV = 0 and OP at most 4 (R120, R123, R124). -/
def commandWordWellFormed (w : Word) : Bool := w.toNat / 16 == 0 && w.toNat % 16 ≤ 4

end Sys2Proof
end

