-- ==== Sys2Proof/Decode.lean ====
section
/-! DEFINITION. Decoding and encoding of command words (spec/30_encoding.md R120 to R125), and the byte order of a word
(spec/20_memory.md R86). -/

namespace Sys2Proof

/-- The opcode field OP, bits 3:0 (R120). -/
def opField (w : Word) : BitVec 4 := w.extractLsb' 0 4

/-- The reserved field RSV, bits 31:4 (R120). -/
def rsvField (w : Word) : BitVec 28 := w.extractLsb' 4 28

/-- Why a word is no command (R124). -/
inductive IllegalWord where
  /-- RSV is not 0, whatever OP is. Raised by `decode`; safe: CORE rejects the word with E_ILL. -/
  | reservedBits
  /-- RSV is 0 and OP is in 0x5 to 0xF. Raised by `decode`; safe: CORE rejects the word with E_ILL. -/
  | illegalOpcode
deriving DecidableEq, Repr

/-- What a word decodes to: exactly one command, or illegal with its reason (R124, R125). -/
inductive Decoded where
  | command (i : Instr)
  | illegal (why : IllegalWord)
deriving DecidableEq, Repr

/-- The opcode map (R123); `none` for OP 0x5 to 0xF. -/
def decodeOp (op : BitVec 4) : Option Instr :=
  match op.toNat with
  | 0 => some .nop
  | 1 => some .init
  | 2 => some .setp
  | 3 => some .proc
  | 4 => some .reset
  | _ => none

/-- `Decode(v)`, total over all 32-bit words (R125). -/
def decode (w : Word) : Decoded :=
  if rsvField w ≠ 0 then .illegal .reservedBits
  else match decodeOp (opField w) with
    | some i => .command i
    | none => .illegal .illegalOpcode

/-- The opcode of a command (R123). -/
def opcodeOf : Instr → BitVec 4
  | .nop => 0x0
  | .init => 0x1
  | .setp => 0x2
  | .proc => 0x3
  | .reset => 0x4

/-- The command word: RSV = 0 above OP (R120, R123). -/
def encode (i : Instr) : Word := (0 : BitVec 28) ++ opcodeOf i

/-- The four bytes of a word, the byte at the lowest address first: little-endian (R86). -/
def bytesOfWord (w : Word) : List Byte :=
  [w.extractLsb' 0 8, w.extractLsb' 8 8, w.extractLsb' 16 8, w.extractLsb' 24 8]

/-- The word four bytes make, the first at the lowest address; any other count of bytes is no word (R82, R86). -/
def wordOfBytes : List Byte → Option Word
  | [b0, b1, b2, b3] => some (b3 ++ b2 ++ b1 ++ b0)
  | _ => none

/-- The command four bytes in memory order stand for; a refusal of any kind is `none`. -/
def decodeBytes (bs : List Byte) : Option Instr :=
  match wordOfBytes bs with
  | none => none
  | some w =>
    match decode w with
    | .command i => some i
    | .illegal _ => none

/-- The command the decoder reads from the low `nbits` bits of `w`, every bit above them 0. A command is one 32-bit word
(R121), so more than 32 bits are no command. -/
def decodeTableWord (nbits w : Nat) : Option Instr :=
  if nbits ≤ 32 then decodeBytes (bytesOfWord (BitVec.ofNat 32 (w % 2 ^ nbits))) else none

end Sys2Proof
end

