-- ==== Sys2Proof/Machine/Numeric.lean ====
section
/-! DEFINITION. The binary32 format, its tests and comparisons, and the four arithmetic primitives
(spec/40_numeric.md R150 to R155, spec/20_memory.md R87).

Every finite binary32 value is a whole number of units of 2^-149, the smallest subnormal. Operands become whole
numbers, the result is computed exactly, and `roundMag` rounds it once (R151). -/

namespace Sys2Proof.Machine

/-- The sign bit, bit 31 (R87): `true` for negative. -/
def signBit (v : Word) : Bool := v.getLsbD 31

/-- The biased exponent, bits 30:23 (R87). -/
def expField (v : Word) : Nat := v.toNat / 2 ^ 23 % 2 ^ 8

/-- The fraction, bits 22:0 (R87). -/
def fracField (v : Word) : Nat := v.toNat % 2 ^ 23

/-- `isNaN(v)` (R155). -/
def isNaN (v : Word) : Bool := expField v == 0xFF && fracField v != 0

/-- `isInf(v)` (R155). -/
def isInf (v : Word) : Bool := expField v == 0xFF && fracField v == 0

/-- `isFinite(v)` (R155). -/
def isFinite (v : Word) : Bool := expField v != 0xFF

/-- Bits 30:0 as a number: it orders the magnitudes of all values that are not NaNs, infinities included. -/
def magBits (v : Word) : Nat := v.toNat % 2 ^ 31

/-- +0 or -0. -/
def isZero (v : Word) : Bool := magBits v == 0

/-- The magnitude of a finite value in units of 2^-149 (R87, R150): a subnormal is its fraction, a normal value has the
implicit bit 23 and is scaled by its exponent. -/
def magnitude (v : Word) : Nat :=
  if expField v = 0 then fracField v else (2 ^ 23 + fracField v) * 2 ^ (expField v - 1)

/-- A finite value in units of 2^-149. -/
def scaled (v : Word) : Int := if signBit v then -(magnitude v : Int) else magnitude v

/-- The quiet NaN every NaN result is (R153). -/
def quietNaN : Word := 0x7FC00000#32

/-- The pattern with the given sign and bits 30:0 (R87). -/
def packBits (neg : Bool) (bits : Nat) : Word := BitVec.ofNat 32 ((if neg then 2 ^ 31 else 0) + bits)

/-- ±0. -/
def zeroOf (neg : Bool) : Word := packBits neg 0

/-- Bits 30:0 of infinity. -/
def infBits : Nat := 0x7F800000

/-- ±∞. -/
def infOf (neg : Bool) : Word := packBits neg infBits

/-- `num/unit` rounded to a whole number, to nearest, ties to even. -/
def roundHalfEven (num unit : Nat) : Nat :=
  if unit < 2 * (num % unit) ∨ (2 * (num % unit) = unit ∧ num / unit % 2 = 1) then num / unit + 1
  else num / unit

/-- The exponent of the last place kept of the magnitude `num/den`, so that 24 bits are kept; 0 in the subnormal range. -/
def roundExp (num den : Nat) : Nat := Nat.log2 (num / den) - 23

/-- Round the magnitude `num/den`, in units of 2^-149, to bits 30:0 of the nearest binary32 value, ties to even (R151). A
significand that rounds up to 2^24 carries into the exponent field, and a result past the largest finite value is
infinity (R152, first row). -/
def roundMag (num den : Nat) : Nat :=
  min (roundExp num den * 2 ^ 23 + roundHalfEven num (den * 2 ^ roundExp num den)) infBits

/-- `roundMag` with a sign. -/
def roundTo (neg : Bool) (num den : Nat) : Word := packBits neg (roundMag num den)

/-- Negation: bit 31 inverted. -/
def fneg (a : Word) : Word := a ^^^ 0x80000000#32

/-- `fadd(a, b)` (R151, R152, R153). An exact sum of zero is +0 unless both operands are negative zeros. -/
def fadd (a b : Word) : Word :=
  if isNaN a || isNaN b then quietNaN
  else if isInf a then (if isInf b && signBit a != signBit b then quietNaN else infOf (signBit a))
  else if isInf b then infOf (signBit b)
  else
    let sum := scaled a + scaled b
    if sum = 0 then zeroOf (signBit a && signBit b)
    else roundTo (decide (sum < 0)) sum.natAbs 1

/-- `fsub(a, b)`: a plus b with its sign inverted (R151, R152, R153). -/
def fsub (a b : Word) : Word := fadd a (fneg b)

/-- `fmul(a, b)` (R151, R152, R153); the sign of a result that is no NaN is the exclusive or of the signs. -/
def fmul (a b : Word) : Word :=
  if isNaN a || isNaN b then quietNaN
  else
    let neg := signBit a != signBit b
    if isInf a || isInf b then (if isZero a || isZero b then quietNaN else infOf neg)
    else roundTo neg (magnitude a * magnitude b) (2 ^ 149)

/-- `fdiv(a, b)` (R151, R153). A zero, infinite or NaN divisor never occurs (R152); IEEE 754's results stand there
(PRESUMED, log entry 9). -/
def fdiv (a b : Word) : Word :=
  if isNaN a || isNaN b then quietNaN
  else
    let neg := signBit a != signBit b
    if isInf a then (if isInf b then quietNaN else infOf neg)
    else if isInf b then zeroOf neg
    else if isZero b then (if isZero a then quietNaN else infOf neg)
    else roundTo neg (magnitude a * 2 ^ 149) (magnitude b)

/-- The place of a value that is not a NaN in the order of values; both zeros are at 0 (R155). -/
def orderKey (v : Word) : Int := if signBit v then -(magBits v : Int) else magBits v

/-- `a < b`: false if either is a NaN, and -0 = +0 (R155). -/
def flt (a b : Word) : Bool := !isNaN a && !isNaN b && decide (orderKey a < orderKey b)

/-- `a > b` (R155). -/
def fgt (a b : Word) : Bool := flt b a

/-- `a = b` on values (R11): false if either is a NaN, and -0 = +0. -/
def feq (a b : Word) : Bool := !isNaN a && !isNaN b && decide (orderKey a = orderKey b)

/-! The constants of R154. -/

def K_G1 : Word := 0x3F7D3C36#32
def K_G2 : Word := 0x3EDE4F76#32
def K_G3 : Word := 0x3E0D6A16#32
def K_G4 : Word := 0x3CA57A78#32
def K_R0 : Word := 0x3F805F07#32
def K_R1 : Word := 0x3D577319#32
def K_R2 : Word := 0x3DBDA512#32
def K_R3 : Word := 0x3CB295EA#32
def K_DIV : Word := 0x3FA66666#32
def K_SKEW : Word := 0x3E99999A#32
def K_NYQ : Word := 0x3EFAE148#32
def K_2PI : Word := 0x40C90FDB#32
def K_ONE : Word := 0x3F800000#32
def K_FOUR : Word := 0x40800000#32
def K_RMAX : Word := 0x3F800000#32
def K_RMIN : Word := 0x00000000#32

/-- -1. -/
def negOne : Word := 0xBF800000#32

/-- +0, what a cleared register holds. -/
def posZero : Word := 0x00000000#32

end Sys2Proof.Machine
end

