-- ==== Sys2Proof/Machine/Coefficients.lean ====
section
/-! DEFINITION. The coefficient polynomial evaluator CPE and the clamps in front of it
(spec/41_coefficient_evaluator.md R180 to R187). EPS_HZ is an argument (spec/00_scope.md R8). -/

namespace Sys2Proof.Machine

/-- The upper bound of the cutoff, 0.49·fs (R181). -/
def cutoffBound (fs : Word) : Word := fmul K_NYQ fs

/-- `c1` of R181: the cutoff after the lower bound. -/
def cutoffRaised (eps cut : Word) : Word := if flt cut eps then eps else cut

/-- The clamped cutoff; where the bounds cross, the upper one wins (R181). -/
def clampCutoff (eps fs cut : Word) : Word :=
  if fgt (cutoffRaised eps cut) (cutoffBound fs) then cutoffBound fs else cutoffRaised eps cut

/-- `cutcl_bit` (R181). -/
def cutoffClamped (eps fs cut : Word) : Bool := flt cut eps || fgt (cutoffRaised eps cut) (cutoffBound fs)

/-- `r1` of R182: the resonance after the lower bound. -/
def resonanceRaised (res : Word) : Word := if flt res K_RMIN then K_RMIN else res

/-- The clamped resonance; -0 passes unchanged (R182). -/
def clampResonance (res : Word) : Word := if fgt (resonanceRaised res) K_RMAX then K_RMAX else resonanceRaised res

/-- `rescl_bit` (R182). -/
def resonanceClamped (res : Word) : Bool := flt res K_RMIN || fgt (resonanceRaised res) K_RMAX

/-- The normalized angular cutoff `wc`, dividing first (R183). -/
def angularCutoff (acut fs : Word) : Word := fmul K_2PI (fdiv acut fs)

/-- `w2` (R184). -/
def power2 (wc : Word) : Word := fmul wc wc

/-- `w3` (R184). -/
def power3 (wc : Word) : Word := fmul (power2 wc) wc

/-- `w4` (R184). -/
def power4 (wc : Word) : Word := fmul (power3 wc) wc

/-- The stage gain `g`, in monomial form, left to right (R185). -/
def stageGain (wc : Word) : Word :=
  fsub (fadd (fsub (fmul K_G1 wc) (fmul K_G2 (power2 wc))) (fmul K_G3 (power3 wc))) (fmul K_G4 (power4 wc))

/-- The resonance polynomial `pr` (R186). -/
def resonancePoly (wc : Word) : Word :=
  fadd (fsub (fadd K_R0 (fmul K_R1 wc)) (fmul K_R2 (power2 wc))) (fmul K_R3 (power3 wc))

/-- `rg` (R186). -/
def resonanceGain (ares wc : Word) : Word := fmul ares (resonancePoly wc)

/-- `b0` (R187). -/
def coefB0 (g : Word) : Word := fdiv g K_DIV

/-- `b1` (R187). -/
def coefB1 (g : Word) : Word := fdiv (fmul g K_SKEW) K_DIV

/-- `a1` (R187). -/
def coefA1 (g : Word) : Word := fsub K_ONE g

/-- What the CPE gives SETP (R180). -/
structure CpeResult where
  acut : Word
  ares : Word
  cutcl : Bool
  rescl : Bool
  b0 : Word
  b1 : Word
  a1 : Word
  rg : Word
deriving DecidableEq, Repr

/-- `CPE(fs, cut, res)`: the composition of R181 to R187 (R180). -/
def cpe (eps fs cut res : Word) : CpeResult :=
  let acut := clampCutoff eps fs cut
  let ares := clampResonance res
  let wc := angularCutoff acut fs
  let g := stageGain wc
  { acut := acut
    ares := ares
    cutcl := cutoffClamped eps fs cut
    rescl := resonanceClamped res
    b0 := coefB0 g
    b1 := coefB1 g
    a1 := coefA1 g
    rg := resonanceGain ares wc }

end Sys2Proof.Machine
end

