-- ==== Sys2Proof/Config.lean ====
section
/-! DEFINITION. The parameters of one instance of CORE (spec/00_scope.md R8). Each is a constant with no body, passed
through a wrapper that gives it exactly the spec's constraint, so that every statement about them holds for every
admissible instance. -/

namespace Sys2Proof.Config

open Sys2Proof.Machine

/-- The free pattern COMP_GAIN is made from (DEDUCED, log entry 6). -/
opaque compGainFree : Word

/-- COMP_GAIN's constraint, +0 ≤ COMP_GAIN ≤ 2^64 (R8, D9): sign bit clear and at most 0x5F800000 (DEDUCED, log entry 6). -/
def compGainAdmissible (v : Word) : Bool := v.toNat ≤ 0x5F800000

/-- COMP_GAIN: any admissible value, and the default 0.5 in place of one that is not (R8). -/
def compGain : Word := if compGainAdmissible compGainFree then compGainFree else 0x3F000000#32

/-- The free pattern EPS_HZ is made from (DESIGN CHOICE, log entry 7). -/
opaque epsHzFree : Word

/-- EPS_HZ's constraint, finite and > 0 (R8, D10). -/
def epsHzAdmissible (v : Word) : Bool := isFinite v && fgt v posZero

/-- EPS_HZ: any admissible value; 1.0 stands in place of one that is not (DESIGN CHOICE, log entry 7). -/
def epsHz : Word := if epsHzAdmissible epsHzFree then epsHzFree else 0x3F800000#32

/-- The free function TANH is made from (DESIGN CHOICE, log entry 5). -/
opaque tanhFree : Word → Word

/-- `f` made to satisfy the laws of R160: zeros to themselves (T3), infinities to ±1 (T4), every other value that is
not a NaN into [-1, +1] (T2). A function that satisfies the laws is left as it is on every value that is not a NaN. On a
NaN the laws say nothing (T5) and `f` is left as it is (DESIGN CHOICE, log entry 10). -/
def lawful (f : Word → Word) (x : Word) : Word :=
  if isNaN x then f x
  else if isZero x then x
  else if isInf x then (if signBit x then negOne else K_ONE)
  else if magBits (f x) ≤ magBits K_ONE then f x
  else K_ONE

/-- TANH (R159, R160). -/
def tanh (x : Word) : Word := lawful tanhFree x

/-- BASE divided by 256: BASE is a multiple of 256 (R8). -/
opaque baseBlock : Nat

/-- BASE, the platform address of the register window (R8, R81). -/
def base : Nat := 256 * baseBlock

end Sys2Proof.Config
end

