-- ==== Sys2Proof/Machine/State.lean ====
section
/-! DEFINITION. The architectural state of CORE (spec/10_state.md) as plain data, and its value after hardware reset
(R56). -/

namespace Sys2Proof.Machine

/-- The two latches of one stage (R33): `pi` is previousInput, `po` previousOutput. -/
structure Stage where
  pi : Word
  po : Word
deriving DecidableEq, Repr

/-- Five mixer weights A to E: the latches WTA to WTE (R39), or their staging registers (R43). -/
structure Weights where
  a : Word
  b : Word
  c : Word
  d : Word
  e : Word
deriving DecidableEq, Repr

/-- The stored bits of STATUS (R45). READY and the reserved bits have no storage (R46, DESIGN CHOICE, log entry 16). -/
structure Status where
  /-- bit 0 -/
  inited : Bool
  /-- bit 1 -/
  cvalid : Bool
  /-- bit 3 -/
  cutcl : Bool
  /-- bit 4 -/
  rescl : Bool
  /-- bit 8 -/
  eCfg : Bool
  /-- bit 9 -/
  eParam : Bool
  /-- bit 10 -/
  eSeq : Bool
  /-- bit 11 -/
  eNanin : Bool
  /-- bit 12 -/
  eIll : Bool
  /-- bit 13 -/
  nfOut : Bool
deriving DecidableEq, Repr

/-- Everything the spec gives CORE (R30), and two fields of the model's own at the end. -/
structure State where
  /-- stage 1, registers S1PI and S1PO (R33, R36) -/
  s1 : Stage
  /-- stage 2, registers S2PI and S2PO -/
  s2 : Stage
  /-- stage 3, registers S3PI and S3PO -/
  s3 : Stage
  /-- stage 4, registers S4PI and S4PO -/
  s4 : Stage
  /-- the feedback-delay register FBR (R34) -/
  fbr : Word
  /-- coefficient latch B0 (R37) -/
  b0 : Word
  /-- coefficient latch B1 (R37) -/
  b1 : Word
  /-- coefficient latch A1 (R37) -/
  a1 : Word
  /-- coefficient latch RG (R37) -/
  rg : Word
  /-- weight latches WTA to WTE (R39) -/
  wt : Weights
  /-- AFS, the active sample rate (R40) -/
  afs : Word
  /-- ACUT, the active clamped cutoff (R41) -/
  acut : Word
  /-- ARES, the active clamped resonance (R41) -/
  ares : Word
  /-- OUT, the output of the last PROC (R42) -/
  out : Word
  /-- staging P_FS (R43) -/
  pFs : Word
  /-- staging P_CUT (R43) -/
  pCut : Word
  /-- staging P_RES (R43) -/
  pRes : Word
  /-- staging P_WTA to P_WTE (R43) -/
  pWt : Weights
  /-- staging P_IN (R43) -/
  pIn : Word
  /-- STATUS (R45) -/
  status : Status
  /-- ECMD, the last rejected command word (R49) -/
  ecmd : Word
  /-- the MODEL's own: platform events issued and not yet served, oldest first (DESIGN CHOICE, log entry 1) -/
  pending : List PlatformEvent
  /-- the MODEL's own: the response of the last access served (DESIGN CHOICE, log entry 2) -/
  resp : Option Response
deriving DecidableEq, Repr

/-- Why a step stops with a fault. No rule of the spec stops CORE (R300, R308, R310; DEDUCED, log entry 4), so there is no
constructor and no step faults. -/
inductive Fault where
deriving DecidableEq, Repr

/-- Why an instruction has no meaning. -/
inductive Refusal where
  /-- Raised by an arm of `exec` whose instruction is not modelled yet; safe. No arm raises it. -/
  | notModelled (mnemonic : String)
deriving DecidableEq, Repr

/-- Two latches at +0. -/
def Stage.zero : Stage := ⟨0x00000000#32, 0x00000000#32⟩

/-- Five weights at +0. -/
def Weights.zero : Weights := ⟨0x00000000#32, 0x00000000#32, 0x00000000#32, 0x00000000#32, 0x00000000#32⟩

/-- STATUS = 0x00000000. -/
def Status.zero : Status := ⟨false, false, false, false, false, false, false, false, false, false⟩

/-- The machine right after hardware reset (R56, R340), with no event pending and no access served. -/
def State.reset : State where
  s1 := Stage.zero
  s2 := Stage.zero
  s3 := Stage.zero
  s4 := Stage.zero
  fbr := 0x00000000#32
  b0 := 0x00000000#32
  b1 := 0x00000000#32
  a1 := 0x00000000#32
  rg := 0x00000000#32
  wt := Weights.zero
  afs := 0x00000000#32
  acut := 0x00000000#32
  ares := 0x00000000#32
  out := 0x00000000#32
  pFs := 0x00000000#32
  pCut := 0x00000000#32
  pRes := 0x00000000#32
  pWt := Weights.zero
  pIn := 0x00000000#32
  status := Status.zero
  ecmd := 0x00000000#32
  pending := []
  resp := none

end Sys2Proof.Machine
end

