-- ==== Sys2Proof/Machine/Flags.lean ====
section
/-! DEFINITION. STATUS: its word, its sticky bits and its write-1-to-clear (spec/10_state.md R45 to R48). -/

namespace Sys2Proof.Machine

/-- READY reads INITED AND CVALID (R46). -/
def ready (st : Status) : Bool := st.inited && st.cvalid

/-- The word STATUS reads as: bits 13:8, reserved 7:5, RESCL, CUTCL, READY, CVALID, INITED; reserved bits read 0 (R45). -/
def statusWord (st : Status) : Word :=
  (0 : BitVec 18) ++ BitVec.ofBool st.nfOut ++ BitVec.ofBool st.eIll ++ BitVec.ofBool st.eNanin ++
    BitVec.ofBool st.eSeq ++ BitVec.ofBool st.eParam ++ BitVec.ofBool st.eCfg ++ (0 : BitVec 3) ++
    BitVec.ofBool st.rescl ++ BitVec.ofBool st.cutcl ++ BitVec.ofBool (ready st) ++
    BitVec.ofBool st.cvalid ++ BitVec.ofBool st.inited

/-- The sticky events (R301 to R306): five rejections and the notification NF_OUT. -/
inductive Cause where
  | eCfg | eParam | eSeq | eNanin | eIll | nfOut
deriving DecidableEq, Repr

/-- The cause code of an event: its STATUS bit number (R300). -/
def causeCode : Cause → Nat
  | .eCfg => 8
  | .eParam => 9
  | .eSeq => 10
  | .eNanin => 11
  | .eIll => 12
  | .nfOut => 13

/-- Whether the sticky bit of an event is set. -/
def stickyBit (st : Status) : Cause → Bool
  | .eCfg => st.eCfg
  | .eParam => st.eParam
  | .eSeq => st.eSeq
  | .eNanin => st.eNanin
  | .eIll => st.eIll
  | .nfOut => st.nfOut

/-- `STATUS[bit] <- 1` (R13, R231). -/
def setSticky (c : Cause) (st : Status) : Status :=
  match c with
  | .eCfg => { st with eCfg := true }
  | .eParam => { st with eParam := true }
  | .eSeq => { st with eSeq := true }
  | .eNanin => { st with eNanin := true }
  | .eIll => { st with eIll := true }
  | .nfOut => { st with nfOut := true }

/-- A bus write of `v` to STATUS: every sticky bit whose write bit is 1 is cleared, and no other bit changes (R48, R89). -/
def clearSticky (v : Word) (st : Status) : Status :=
  { st with
    eCfg := st.eCfg && !v.getLsbD 8
    eParam := st.eParam && !v.getLsbD 9
    eSeq := st.eSeq && !v.getLsbD 10
    eNanin := st.eNanin && !v.getLsbD 11
    eIll := st.eIll && !v.getLsbD 12
    nfOut := st.nfOut && !v.getLsbD 13 }

/-- The interface mode (R51). -/
inductive Mode where
  | uninit
  | configured
  | ready
deriving DecidableEq, Repr

/-- The mode as a view of (INITED, CVALID); the pair (0, 1) is unreachable and has no mode (R51). -/
def modeOf (st : Status) : Option Mode :=
  match st.inited, st.cvalid with
  | false, false => some .uninit
  | true, false => some .configured
  | true, true => some .ready
  | false, true => none

end Sys2Proof.Machine
end

