-- ==== Sys2Proof/Machine/Operands.lean ====
section
/-! DEFINITION. The named registers and the operands of commands: the register map (spec/20_memory.md R84), register
reads (R88), and the operand checks of INIT, SETP and PROC (spec/43_commands.md R258, R262, R265). Operands are implicit
whole registers (spec/30_encoding.md R122). -/

namespace Sys2Proof.Machine

/-- The offset of a register (R84). -/
def regOffset : RegName → Offset
  | .cmd => 0x00 | .status => 0x04 | .pFs => 0x08 | .pCut => 0x0C
  | .pRes => 0x10 | .pWta => 0x14 | .pWtb => 0x18 | .pWtc => 0x1C
  | .pWtd => 0x20 | .pWte => 0x24 | .pIn => 0x28 | .out => 0x2C
  | .afs => 0x30 | .acut => 0x34 | .ares => 0x38 | .b0 => 0x3C
  | .b1 => 0x40 | .a1 => 0x44 | .rg => 0x48 | .wta => 0x4C
  | .wtb => 0x50 | .wtc => 0x54 | .wtd => 0x58 | .wte => 0x5C
  | .s1pi => 0x60 | .s1po => 0x64 | .s2pi => 0x68 | .s2po => 0x6C
  | .s3pi => 0x70 | .s3po => 0x74 | .s4pi => 0x78 | .s4po => 0x7C
  | .fbr => 0x80 | .cgain => 0x84 | .epshz => 0x88 | .ecmd => 0x8C

/-- Every register of the map, in the order of the offsets (R84). -/
def allRegs : List RegName :=
  [.cmd, .status, .pFs, .pCut, .pRes, .pWta, .pWtb, .pWtc, .pWtd, .pWte, .pIn, .out, .afs, .acut, .ares,
   .b0, .b1, .a1, .rg, .wta, .wtb, .wtc, .wtd, .wte, .s1pi, .s1po, .s2pi, .s2po, .s3pi, .s3po, .s4pi, .s4po,
   .fbr, .cgain, .epshz, .ecmd]

/-- `name(off)`: the register at an offset, `none` where none starts (R84, R85). -/
def regAt (off : Offset) : Option RegName := allRegs.find? (fun r => regOffset r == off)

/-- How the host may use a register (R84). -/
inductive RegAccess where
  /-- write-only: reads return 0 -/
  | wo
  /-- read-only with write-1-to-clear bits -/
  | w1c
  /-- read and write -/
  | rw
  /-- read-only: writes ignored -/
  | ro
deriving DecidableEq, Repr

/-- The access column of the register map (R84). -/
def regAccess : RegName → RegAccess
  | .cmd => .wo
  | .status => .w1c
  | .pFs => .rw | .pCut => .rw | .pRes => .rw
  | .pWta => .rw | .pWtb => .rw | .pWtc => .rw | .pWtd => .rw | .pWte => .rw
  | .pIn => .rw
  | .out => .ro | .afs => .ro | .acut => .ro | .ares => .ro
  | .b0 => .ro | .b1 => .ro | .a1 => .ro | .rg => .ro
  | .wta => .ro | .wtb => .ro | .wtc => .ro | .wtd => .ro | .wte => .ro
  | .s1pi => .ro | .s1po => .ro | .s2pi => .ro | .s2po => .ro
  | .s3pi => .ro | .s3po => .ro | .s4pi => .ro | .s4po => .ro
  | .fbr => .ro | .cgain => .ro | .epshz => .ro | .ecmd => .ro

/-- The word a read of a register returns (R88): CMD reads 0 (R44), CGAIN and EPSHZ the parameters (R50). -/
def readReg (s : State) : RegName → Word
  | .cmd => 0x00000000#32
  | .status => statusWord s.status
  | .pFs => s.pFs
  | .pCut => s.pCut
  | .pRes => s.pRes
  | .pWta => s.pWt.a
  | .pWtb => s.pWt.b
  | .pWtc => s.pWt.c
  | .pWtd => s.pWt.d
  | .pWte => s.pWt.e
  | .pIn => s.pIn
  | .out => s.out
  | .afs => s.afs
  | .acut => s.acut
  | .ares => s.ares
  | .b0 => s.b0
  | .b1 => s.b1
  | .a1 => s.a1
  | .rg => s.rg
  | .wta => s.wt.a
  | .wtb => s.wt.b
  | .wtc => s.wt.c
  | .wtd => s.wt.d
  | .wte => s.wt.e
  | .s1pi => s.s1.pi
  | .s1po => s.s1.po
  | .s2pi => s.s2.pi
  | .s2po => s.s2.po
  | .s3pi => s.s3.pi
  | .s3po => s.s3.po
  | .s4pi => s.s4.pi
  | .s4po => s.s4.po
  | .fbr => s.fbr
  | .cgain => Config.compGain
  | .epshz => Config.epsHz
  | .ecmd => s.ecmd

/-- `isFinite(fs) and fs > 0`: the sample rates INIT accepts (R258). -/
def sampleRateValid (fs : Word) : Bool := isFinite fs && fgt fs posZero

/-- All five weights are finite (R262). -/
def weightsFinite (w : Weights) : Bool :=
  isFinite w.a && isFinite w.b && isFinite w.c && isFinite w.d && isFinite w.e

/-- The operands SETP accepts: cutoff and resonance not NaN, every weight finite (R262). -/
def setpOperandsValid (cut res : Word) (w : Weights) : Bool := !isNaN cut && !isNaN res && weightsFinite w

/-- The samples PROC accepts: every value but a NaN (R265, R302). -/
def sampleValid (x : Word) : Bool := !isNaN x

end Sys2Proof.Machine
end

