-- ==== Sys2Proof/Machine/Ops.lean ====
section
/-! DEFINITION. The shared operations over registers: rejecting a command and clearing its record (spec/00_scope.md R13,
spec/60_exceptions.md R310, R311), the zeroing of the filter memory (spec/10_state.md R33), hardware reset
(spec/70_reset_and_hazards.md R340), and the writes the host can make (spec/20_memory.md R89). -/

namespace Sys2Proof.Machine

/-- `raise Reject(bit)` of the command word `v`: the sticky bit is set, ECMD takes the word, and nothing else changes
(R13, R310). The caller hands in the state from before the command. -/
def reject (c : Cause) (v : Word) (s : State) : State :=
  { s with status := setSticky c s.status, ecmd := v }

/-- The host's answer to a rejection, a write of `v` to STATUS: the return beside the entry (R48, R311). -/
def writeStatus (v : Word) (s : State) : State := { s with status := clearSticky v s.status }

/-- The nine latches and OUT at +0: what RESET and a valid INIT share (R258, R270, R341). -/
def zeroFilterMemory (s : State) : State :=
  { s with
    s1 := ⟨posZero, posZero⟩
    s2 := ⟨posZero, posZero⟩
    s3 := ⟨posZero, posZero⟩
    s4 := ⟨posZero, posZero⟩
    fbr := posZero
    out := posZero }

/-- The coefficient and weight latches, ACUT, ARES and the clamp flags at zero, as a valid INIT leaves them (R258). -/
def zeroActiveSet (s : State) : State :=
  { s with
    b0 := posZero
    b1 := posZero
    a1 := posZero
    rg := posZero
    wt := ⟨posZero, posZero, posZero, posZero, posZero⟩
    acut := posZero
    ares := posZero
    status := { s.status with cutcl := false, rescl := false } }

/-- Hardware reset: every register at its value of R56 (R340). Events that wait are served after the release, and no
access has been answered (DESIGN CHOICE, log entries 2 and 12). -/
def hardReset (s : State) : State := { State.reset with pending := s.pending }

/-- A host write of `v` to a staging register keeps the raw pattern (R43, R89); every other register is left alone. -/
def writeStaging (r : RegName) (v : Word) (s : State) : State :=
  match r with
  | .pFs => { s with pFs := v }
  | .pCut => { s with pCut := v }
  | .pRes => { s with pRes := v }
  | .pWta => { s with pWt := { s.pWt with a := v } }
  | .pWtb => { s with pWt := { s.pWt with b := v } }
  | .pWtc => { s with pWt := { s.pWt with c := v } }
  | .pWtd => { s with pWt := { s.pWt with d := v } }
  | .pWte => { s with pWt := { s.pWt with e := v } }
  | .pIn => { s with pIn := v }
  | _ => s

/-- Record the response of the access just served (DESIGN CHOICE, log entry 2). -/
def respond (r : Response) (s : State) : State := { s with resp := some r }

end Sys2Proof.Machine
end

