-- ==== Sys2Proof/Machine/Parameters.lean ====
section
/-! DEFINITION. The command SETP (spec/43_commands.md R261 to R264). -/

namespace Sys2Proof.Machine

/-- Latch a CPE result and the staged weights as the new active set (R263). -/
def publish (r : CpeResult) (s : State) : State :=
  { s with
    acut := r.acut
    ares := r.ares
    b0 := r.b0
    b1 := r.b1
    a1 := r.a1
    rg := r.rg
    wt := s.pWt
    status := { s.status with cutcl := r.cutcl, rescl := r.rescl, cvalid := true } }

/-- `SETP(v)` for an EPS_HZ: mode check, operand check, then the atomic publication (R252, R263). -/
def setParameters (eps : Word) (s : State) : State :=
  if !s.status.inited then reject .eSeq (encode .setp) s
  else if !setpOperandsValid s.pCut s.pRes s.pWt then reject .eParam (encode .setp) s
  else publish (cpe eps s.afs s.pCut s.pRes) s

/-- SETP (R261). -/
def execSetp (s : State) : Host.Outcome State Fault Refusal := .next (setParameters Config.epsHz s)

end Sys2Proof.Machine
end

