-- ==== Sys2Proof/Machine/Datapath.lean ====
section
/-! DEFINITION. The per-sample datapath of PROC: the saturating accumulator, the four stages, the feedback-delay register
and the tap mixer (spec/42_stage_cascade_mixer.md R210 to R231). COMP_GAIN and TANH are arguments
(spec/00_scope.md R8). -/

namespace Sys2Proof.Machine

/-- The output of one stage from its latches as they were before it ran (R210, R211). -/
def stageOutput (b0 b1 a1 x : Word) (st : Stage) : Word :=
  fadd (fadd (fmul b0 x) (fmul b1 st.pi)) (fmul a1 st.po)

/-- `k4`, four times RG (R216). -/
def feedbackGain (rg : Word) : Word := fmul K_FOUR rg

/-- `drive` (R216). -/
def driveGain (compGain rg : Word) : Word := fadd K_ONE (fmul (feedbackGain rg) compGain)

/-- `fb`, the feedback-modulated drive (R216). -/
def feedbackDrive (compGain rg fbr x : Word) : Word :=
  fsub (fmul (driveGain compGain rg) x) (fmul (feedbackGain rg) fbr)

/-- The five taps of one PROC (R225). -/
structure Taps where
  nl : Word
  out1 : Word
  out2 : Word
  out3 : Word
  out4 : Word
deriving DecidableEq, Repr

/-- The taps of a PROC with input `x`: saturation (R217), then the four stages in order, each handing its output to the
next (R220). -/
def computeTaps (compGain : Word) (th : Word → Word) (s : State) (x : Word) : Taps :=
  let nl := th (feedbackDrive compGain s.rg s.fbr x)
  let out1 := stageOutput s.b0 s.b1 s.a1 nl s.s1
  let out2 := stageOutput s.b0 s.b1 s.a1 out1 s.s2
  let out3 := stageOutput s.b0 s.b1 s.a1 out2 s.s3
  let out4 := stageOutput s.b0 s.b1 s.a1 out3 s.s4
  ⟨nl, out1, out2, out3, out4⟩

/-- `mix`: the weighted sum of the taps, left to right (R225). -/
def mixTaps (t : Taps) (w : Weights) : Word :=
  fadd (fadd (fadd (fadd (fmul t.nl w.a) (fmul t.out1 w.b)) (fmul t.out2 w.c)) (fmul t.out3 w.d)) (fmul t.out4 w.e)

/-- NF_OUT is set when the output is not finite (R231). -/
def noteOutput (y : Word) (st : Status) : Status := if isFinite y then st else setSticky .nfOut st

/-- Commit the taps and the output: the stage latches (R212), FBR (R222), OUT and NF_OUT (R230). -/
def commitTaps (t : Taps) (y : Word) (s : State) : State :=
  { s with
    s1 := ⟨t.nl, t.out1⟩
    s2 := ⟨t.out1, t.out2⟩
    s3 := ⟨t.out2, t.out3⟩
    s4 := ⟨t.out3, t.out4⟩
    fbr := t.out4
    out := y
    status := noteOutput y s.status }

/-- `DatapathStep(x)` (R230). -/
def datapathStep (compGain : Word) (th : Word → Word) (x : Word) (s : State) : State :=
  let t := computeTaps compGain th s x
  commitTaps t (mixTaps t s.wt) s

end Sys2Proof.Machine
end

