-- ==== Sys2Proof/Machine/Process.lean ====
section
/-! DEFINITION. The command PROC (spec/43_commands.md R265, R266). -/

namespace Sys2Proof.Machine

/-- `PROC(v)` for a COMP_GAIN and a TANH: mode check, operand check, then one datapath step (R252, R265). -/
def processSample (compGain : Word) (th : Word → Word) (s : State) : State :=
  if !ready s.status then reject .eSeq (encode .proc) s
  else if !sampleValid s.pIn then reject .eNanin (encode .proc) s
  else datapathStep compGain th s.pIn s

/-- PROC (R265). -/
def execProc (s : State) : Host.Outcome State Fault Refusal :=
  .next (processSample Config.compGain Config.tanh s)

end Sys2Proof.Machine
end

