-- ==== Sys2Proof/Machine/System.lean ====
section
/-! DEFINITION. The commands NOP, INIT and RESET (spec/43_commands.md R255, R257 to R260, R270). -/

namespace Sys2Proof.Machine

/-- NOP (R255). -/
def execNop (s : State) : Host.Outcome State Fault Refusal := .next s

/-- INIT with a valid sample rate (R258). -/
def startStream (s : State) : State :=
  let t := zeroActiveSet (zeroFilterMemory s)
  { t with afs := s.pFs, status := { t.status with inited := true, cvalid := false } }

/-- INIT with an invalid sample rate: the mode drops to UNINIT and the command is rejected with E_CFG (R259, R303). -/
def refuseRate (s : State) : State :=
  reject .eCfg (encode .init) { s with status := { s.status with inited := false, cvalid := false } }

/-- INIT (R257 to R259). -/
def execInit (s : State) : Host.Outcome State Fault Refusal :=
  if sampleRateValid s.pFs then .next (startStream s) else .next (refuseRate s)

/-- RESET (R270). -/
def execReset (s : State) : Host.Outcome State Fault Refusal := .next (zeroFilterMemory s)

end Sys2Proof.Machine
end

