-- ==== Sys2Proof/Machine/Dispatch.lean ====
section
/-! DEFINITION. One arm per command (spec/43_commands.md R250). -/

namespace Sys2Proof.Machine

def exec (i : Instr) (s : State) : Host.Outcome State Fault Refusal :=
  match i with
  | .nop => Sys2Proof.Machine.execNop s
  | .init => Sys2Proof.Machine.execInit s
  | .setp => Sys2Proof.Machine.execSetp s
  | .proc => Sys2Proof.Machine.execProc s
  | .reset => Sys2Proof.Machine.execReset s

end Sys2Proof.Machine
end

