-- ==== Sys2Proof/Machine/Bus.lean ====
section
/-! DEFINITION. The register window: bus reads and writes, the command a CMD write runs, and the platform's events
(spec/20_memory.md R81 to R92, spec/43_commands.md R250, spec/60_exceptions.md R308). -/

namespace Sys2Proof.Machine

/-- `Execute(v)`: run the command a word encodes, or reject the word with E_ILL (R250, R304). -/
def execute (v : Word) (s : State) : Host.Outcome State Fault Refusal :=
  match decode v with
  | .command i => exec i s
  | .illegal _ => .next (reject .eIll v s)

/-- The register a 4-byte access at an offset reaches; `none` where the access gets BUSERR: a wrong size, a misaligned
offset, or an unmapped one (R82, R83, R85, R308). -/
def target (off : Offset) (size : Nat) : Option RegName :=
  if size ≠ 4 ∨ off.toNat % 4 ≠ 0 then none
  else if 0x90 ≤ off.toNat then none
  else regAt off

/-- `MemRead`: the answer of a read. It has no side effect, and a bus error returns 0 (R88, R308). -/
def memRead (off : Offset) (size : Nat) (s : State) : Response :=
  match target off size with
  | none => .readDone .busErr 0x00000000#32
  | some r => .readDone .okay (readReg s r)

/-- What a write of `v` to a register does: CMD runs a command, STATUS clears sticky bits, a staging register keeps the
pattern, and a read-only register ignores it (R89). -/
def writeReg (r : RegName) (v : Word) (s : State) : Host.Outcome State Fault Refusal :=
  match regAccess r with
  | .wo => execute v s
  | .w1c => .next (writeStatus v s)
  | .rw => .next (writeStaging r v s)
  | .ro => .next s

/-- Answer the access once its effect is complete (R92). -/
def answer (r : Response) : Host.Outcome State Fault Refusal → Host.Outcome State Fault Refusal
  | .next s => .next (respond r s)
  | .fault f => .fault f
  | .refused f => .refused f

/-- `MemWrite`: a bus error changes no register and runs no command; every other write is answered OKAY, a rejected
command included (R89, R308). -/
def memWrite (off : Offset) (size : Nat) (v : Word) (s : State) : Host.Outcome State Fault Refusal :=
  match target off size with
  | none => .next (respond (.writeDone .busErr) s)
  | some r => answer (.writeDone .okay) (writeReg r v s)

/-- Serve one access (R92). -/
def serveAccess (a : Access) (s : State) : Host.Outcome State Fault Refusal :=
  match a with
  | .read off size => .next (respond (memRead off size s) s)
  | .write off size v => memWrite off size v s

/-- Serve one platform event (R92, R340). -/
def serveEvent (e : PlatformEvent) (s : State) : Host.Outcome State Fault Refusal :=
  match e with
  | .access a => serveAccess a s
  | .hwReset => .next (hardReset s)

/-- Take the oldest event that waits and serve it; with none waiting nothing changes (R92; DESIGN CHOICE, log entries 1 and 3). -/
def serveNext (s : State) : Host.Outcome State Fault Refusal :=
  match s.pending with
  | [] => .next s
  | e :: rest => serveEvent e { s with pending := rest }

/-- The offset the platform's decoder gives CORE for a host address, `none` outside the window (R81). -/
def selectOffset (base addr : Nat) : Option Offset :=
  if base ≤ addr ∧ addr < base + 0x100 then some (BitVec.ofNat 8 (addr % 0x100)) else none

/-- The host issues a read of `size` bytes at a platform address; outside the window it does not reach CORE (R81). -/
def issueRead (base addr size : Nat) (s : State) : State :=
  match selectOffset base addr with
  | none => s
  | some off => { s with pending := s.pending ++ [.access (.read off size)] }

/-- The host issues a write at a platform address; outside the window it does not reach CORE (R81). -/
def issueWrite (base addr size : Nat) (v : Word) (s : State) : State :=
  match selectOffset base addr with
  | none => s
  | some off => { s with pending := s.pending ++ [.access (.write off size v)] }

/-- One byte of the window as a host bridge numbers it: byte `off mod 4` of the register that holds it, little-endian, and
`none` at an unmapped offset (R86). -/
def windowByte (s : State) (off : Offset) : Option Byte :=
  match regAt (BitVec.ofNat 8 (off.toNat / 4 * 4)) with
  | none => none
  | some r => (bytesOfWord (readReg s r))[off.toNat % 4]?

/-- The event that writes a command word to CMD (R120). -/
def commandWrite (w : Word) : PlatformEvent := .access (.write (regOffset .cmd) 4 w)

/-- Put a CMD write of `w` in front of every event that waits. -/
def queueCommand (w : Word) (s : State) : State := { s with pending := commandWrite w :: s.pending }

end Sys2Proof.Machine
end

