-- ==== Sys2Proof/Machine/Step.lean ====
section
/-! DEFINITION. One step of CORE: it serves the oldest platform event that waits (spec/20_memory.md R92). -/

namespace Sys2Proof.Machine

/-- One step (R92). CORE has no program counter and fetches nothing: the host's accesses are its input (R32). -/
def step (s : State) : Host.Outcome State Fault Refusal := serveNext s

/-- `s` with a CMD write of the low `nbits` bits of `w` as the next event, so that the very next step runs that command
(DESIGN CHOICE, log entries 1 and 18). -/
def State.withFetchWord (s : State) (nbits w : Nat) : State := queueCommand (BitVec.ofNat 32 (w % 2 ^ nbits)) s

end Sys2Proof.Machine
end

