-- ==== Sys2Proof/Machine/Assembler.lean ====
section
/-! DEFINITION. The host assembler: literals, lines, pseudo-instructions and the accesses they stand for
(spec/30_encoding.md R126 to R128). It is the host's, not CORE's; a program is loaded by placing its accesses in
`State.pending`. -/

namespace Sys2Proof.Machine

/-- The word a literal stands for: the raw pattern, or the binary32 value nearest the decimal, ties to even (R126). -/
def literalWord : Literal → Word
  | .raw v => v
  | .decimal neg num places => roundTo neg (num * 2 ^ 149) (10 ^ places)
  | .nan => quietNaN
  | .posInf => infOf false
  | .negInf => infOf true

/-- The bus access of a line (R126, R128). -/
def lineAccess : AsmLine → Access
  | .wr r v => .write (regOffset r) 4 (literalWord v)
  | .rd r => .read (regOffset r) 4
  | .command i => .write (regOffset .cmd) 4 (encode i)

/-- The lines of a pseudo-instruction, in order (R127). -/
def expandPseudo : PseudoOp → List AsmLine
  | .initStream fs => [.wr .pFs fs, .command .init]
  | .setparams cut res a b c d e =>
    [.wr .pCut cut, .wr .pRes res, .wr .pWta a, .wr .pWtb b, .wr .pWtc c, .wr .pWtd d, .wr .pWte e, .command .setp]
  | .process x => [.wr .pIn x, .command .proc, .rd .out]
  | .clrerr => [.wr .status (.raw 0x00003F00#32)]

/-- A host program as the events it issues, one access per line, in order (R126, R128). -/
def programEvents (lines : List AsmLine) : List PlatformEvent := lines.map (fun l => .access (lineAccess l))

/-- The host issues a program after every event that waits. -/
def issueProgram (lines : List AsmLine) (s : State) : State := { s with pending := s.pending ++ programEvents lines }

end Sys2Proof.Machine
end

