-- ==== Sys2Proof/Machine/TanhRef.lean ====
section
/-! DEFINITION. The reference configuration TANH_CR (spec/40_numeric.md R161), the hyperbolic tangent rounded to nearest.
No step uses it: TANH is the parameter `Config.tanh`. The spec's vectors that pass through TANH use it
(spec/95_test_vectors.md section 2.1). -/

namespace Sys2Proof.Machine

/-- One in the fixed-point format of `tanhCR`, with 192 fraction bits. -/
def fixOne : Nat := 2 ^ 192

/-- The exponential series of `y` in fixed point, Horner form from term `k` upwards with `n` terms left:
`1 + y/k·(1 + y/(k+1)·(…))`. -/
def expHorner (y : Nat) : Nat → Nat → Nat
  | 0, _ => fixOne
  | n + 1, k => fixOne + y * expHorner y n (k + 1) / (k * fixOne)

/-- Square a fixed-point number `n` times. -/
def squareTimes : Nat → Nat → Nat
  | 0, e => e
  | n + 1, e => squareTimes n (e * e / fixOne)

/-- `exp(2x)` in fixed point, for `x` given in units of 2^-149 and below 10: the series at `2x/64`, squared six times. -/
def expTwice (m : Nat) : Nat := squareTimes 6 (expHorner (m * 2 ^ 43 / 2 ^ 5) 40 1)

/-- Bits 30:0 of TANH_CR of a positive finite magnitude. Below 2^-13 the value rounds to itself, from 10 on to 1; between
them it is `(exp(2x) - 1) / (exp(2x) + 1)` with about 170 correct bits, rounded once (UNVERIFIED, log entry 11). -/
def tanhMag (v : Word) : Nat :=
  if magBits v < 0x39000000 then magBits v
  else if 0x41200000 ≤ magBits v then magBits K_ONE
  else
    let e := expTwice (magnitude v)
    roundMag ((e - fixOne) * 2 ^ 149) (e + fixOne)

/-- TANH_CR (R161). A NaN is never an argument (R160, T5). -/
def tanhCR (v : Word) : Word :=
  if isNaN v then quietNaN else packBits (signBit v) (tanhMag v)

end Sys2Proof.Machine
end

