-- ==== Sys2Proof/Safety.lean ====
section
/-! DEFINITION. What the claims about CORE are said in: groups of registers, the invariant every step keeps
(spec/10_state.md R38, R39, R51 to R53), and sequences of commands. -/

namespace Sys2Proof.Machine

/-- The nine persistent scalars (R35). -/
def filterMemory (s : State) : List Word :=
  [s.s1.pi, s.s1.po, s.s2.pi, s.s2.po, s.s3.pi, s.s3.po, s.s4.pi, s.s4.po, s.fbr]

/-- The coefficient latches, the weight latches, ACUT and ARES: what one SETP replaces together (R95). -/
def activeSet (s : State) : List Word :=
  [s.acut, s.ares, s.b0, s.b1, s.a1, s.rg, s.wt.a, s.wt.b, s.wt.c, s.wt.d, s.wt.e]

/-- The nine staging registers (R43). -/
def staging (s : State) : List Word :=
  [s.pFs, s.pCut, s.pRes, s.pWt.a, s.pWt.b, s.pWt.c, s.pWt.d, s.pWt.e, s.pIn]

/-- The bits 30:0 of 2^n, for n from -126 to 127. -/
def powBits (n : Int) : Nat := (n + 127).toNat * 2 ^ 23

/-- A finite value of the interval from `lo/1000` to `hi/1000`. -/
def inMillis (v : Word) (lo hi : Int) : Prop :=
  isFinite v = true ∧ lo * 2 ^ 149 ≤ 1000 * scaled v ∧ 1000 * scaled v ≤ hi * 2 ^ 149

/-- The coefficient bounds of R38. B0 and B1 are never negative zeros. -/
structure CoeffBounds (s : State) : Prop where
  b0_range : inMillis s.b0 0 890
  b1_range : inMillis s.b1 0 267
  a1_range : inMillis s.a1 (-157) 1000
  rg_range : inMillis s.rg 0 1011
  b0_sign : signBit s.b0 = false
  b1_sign : signBit s.b1 = false

/-- Bounds of the filter memory, each far below the largest finite value. The input of stage 1 is an output of TANH;
a stage output stays within 2^25 times its input bound, because past it the rounding of the sum absorbs the increment
(R53 part (c), with a cruder bound; DEDUCED, log entry 21). -/
structure LatchBounds (s : State) : Prop where
  s1pi_le : magBits s.s1.pi ≤ powBits 0
  s1po_le : magBits s.s1.po ≤ powBits 25
  s2po_le : magBits s.s2.po ≤ powBits 50
  s3po_le : magBits s.s3.po ≤ powBits 75
  s4po_le : magBits s.s4.po ≤ powBits 100

/-- The equal pairs of the filter memory (R52). -/
structure LatchPairs (s : State) : Prop where
  s2pi_eq : s.s2.pi = s.s1.po
  s3pi_eq : s.s3.pi = s.s2.po
  s4pi_eq : s.s4.pi = s.s3.po
  fbr_eq : s.fbr = s.s4.po

/-- The invariant of CORE: what holds at reset and is kept by every step, whatever the host and the platform do. -/
structure Inv (s : State) : Prop where
  /-- the pair (INITED, CVALID) = (0, 1) does not occur (R51) -/
  mode_legal : s.status.cvalid = true → s.status.inited = true
  /-- an initialised CORE has a finite positive sample rate (R258) -/
  rate_valid : s.status.inited = true → sampleRateValid s.afs = true
  /-- every weight latch is finite (R39) -/
  weights_finite : weightsFinite s.wt = true
  /-- the coefficients are in the ranges of R38 -/
  coeffs : CoeffBounds s
  /-- the pairs of R52 are equal -/
  pairs : LatchPairs s
  /-- the latches are bounded, so finite (R53) -/
  latches : LatchBounds s

/-- The command word the next step hands to `execute`, if its event is an accepted CMD write (R89). -/
def servedCommand (s : State) : Option Word :=
  match s.pending with
  | .access (.write off size w) :: _ => if off = regOffset .cmd ∧ size = 4 then some w else none
  | _ => none

/-- Whether the next step serves a hardware reset (R340). -/
def servesReset (s : State) : Bool :=
  match s.pending with
  | .hwReset :: _ => true
  | _ => false

/-- The cause a CMD write of `w` reports, the first that applies: decode, mode, operand, result (R307). -/
def reportedCause (w : Word) (s : State) : Option Cause :=
  match decode w with
  | .illegal _ => some .eIll
  | .command .nop => none
  | .command .init => if sampleRateValid s.pFs then none else some .eCfg
  | .command .setp =>
    if !s.status.inited then some .eSeq
    else if setpOperandsValid s.pCut s.pRes s.pWt then none
    else some .eParam
  | .command .proc =>
    if !ready s.status then some .eSeq
    else if isNaN s.pIn then some .eNanin
    else if isFinite (mixTaps (computeTaps Config.compGain Config.tanh s s.pIn) s.wt) then none
    else some .nfOut
  | .command .reset => none

/-- The laws T2, T3 and T4 of R160. T1 holds of every Lean function and T5 says nothing of one. -/
structure TanhLaws (f : Word → Word) : Prop where
  not_nan : ∀ x, isNaN x = false → isNaN (f x) = false
  bounded : ∀ x, isNaN x = false → magBits (f x) ≤ magBits K_ONE
  at_pos_zero : f 0x00000000#32 = 0x00000000#32
  at_neg_zero : f 0x80000000#32 = 0x80000000#32
  at_pos_inf : f 0x7F800000#32 = 0x3F800000#32
  at_neg_inf : f 0xFF800000#32 = 0xBF800000#32

/-- The angular cutoffs the clamp lets through: from +0 to 0x40490FDB (R183). -/
def inCutoffRange (wc : Word) : Prop := signBit wc = false ∧ magBits wc ≤ 0x40490FDB

/-- Run commands one after another, as CMD writes would, stopping at the first stop. -/
def runCommands : List Instr → State → Host.Outcome State Fault Refusal
  | [], s => .next s
  | i :: is, s =>
    match exec i s with
    | .next t => runCommands is t
    | .fault f => .fault f
    | .refused f => .refused f

/-- `n` PROCs in a row. -/
def runProcs (n : Nat) (s : State) : Host.Outcome State Fault Refusal := runCommands (List.replicate n .proc) s

/-- `r` is a finite value nearest to `x / unit`, in units of 2^-149, and has an even last bit where another finite value
is as near (R151). -/
def nearestEven (r : Word) (x unit : Int) : Prop :=
  isFinite r = true ∧
  ∀ z : Word, isFinite z = true →
    |scaled r * unit - x| ≤ |scaled z * unit - x| ∧
    (|scaled r * unit - x| = |scaled z * unit - x| → scaled z ≠ scaled r → r.getLsbD 0 = false)

/-- The magnitude from which a result overflows, 2^128 - 2^103, in units of 2^-149 (R152, first row). -/
def overflowLimit : Int := 2 ^ 277 - 2 ^ 252

end Sys2Proof.Machine
end

