-- ==== Sys2Proof/Certificates/Slice0/Obligations.lean ====
section
/-! DEFINITION. The statements about CORE for the provers. Each docstring names the rules of spec/ it rests on. -/

open Sys2Proof Sys2Proof.Machine

/-! ## Encoding and the step -/

/-- R123, R125: decoding the command word of a command gives that command. -/
def Obligations.DecodeInvertsEncode : Prop :=
  ∀ i : Instr, i.wellFormed = true → decode (encode i) = .command i

/-- R124 and R304, whole: every 32-bit word is exactly one command or illegal, and an illegal word sets E_ILL, is written
to ECMD, and changes nothing else. -/
def Obligations.EveryWordIsOneCommandOrIllegal : Prop :=
  ∀ w : Word,
    (rsvField w ≠ 0 → decode w = .illegal .reservedBits) ∧
    (rsvField w = 0 → 5 ≤ (opField w).toNat → decode w = .illegal .illegalOpcode) ∧
    (∀ i, decode w = .command i ↔ w = encode i) ∧
    (commandWordWellFormed w = true ↔ ∃ i, w = encode i) ∧
    (rsvField w ≠ 0 ∨ 5 ≤ (opField w).toNat → ∀ s : State,
      execute w s = .next { s with status := { s.status with eIll := true }, ecmd := w })

/-- R123, R124: the words of the opcode map decode to their commands, and words beside them are illegal. -/
def Obligations.MappedWordsDecode : Prop :=
  decode 0x00000000#32 = .command .nop ∧ decode 0x00000001#32 = .command .init ∧
  decode 0x00000002#32 = .command .setp ∧ decode 0x00000003#32 = .command .proc ∧
  decode 0x00000004#32 = .command .reset ∧ decode 0x00000005#32 = .illegal .illegalOpcode ∧
  decode 0x0000000F#32 = .illegal .illegalOpcode ∧ decode 0x00000010#32 = .illegal .reservedBits ∧
  decode 0x80000001#32 = .illegal .reservedBits

/-- R250, R89, R92, R304: when the next event writes a word to CMD, the step is the command the word decodes to, run on the
state without the event and answered OKAY; a word that is illegal sets E_ILL, is written to ECMD, is answered OKAY too, and
changes nothing else. That the event leaves the queue and the answer stands in resp is the model's form (log entries 1
and 2). -/
def Obligations.StepRunsDecodedCommand : Prop :=
  ∀ (s : State) (w : Word) (rest : List PlatformEvent),
    s.pending = .access (.write 0x00#8 4 w) :: rest →
    (∀ (i : Instr) (t : State), decode w = .command i → i.wellFormed = true →
      exec i { s with pending := rest } = .next t →
      step s = .next { t with resp := some (.writeDone .okay) }) ∧
    (∀ why : IllegalWord, decode w = .illegal why →
      step s = .next { s with
        status := { s.status with eIll := true }
        ecmd := w
        pending := rest
        resp := some (.writeDone .okay) })

/-- The model's own interface (log entries 1 and 18): a table word put before the next step is the command that step
runs, and no waiting event is lost. -/
def Obligations.PlacedWordRunsNext : Prop :=
  ∀ (s t : State) (nbits w : Nat) (i : Instr),
    decodeTableWord nbits w = some i → exec i s = .next t →
    step (s.withFetchWord nbits w) = .next { t with resp := some (.writeDone .okay) }

/-- 93_implementation_defined.md section 1 and R308, R310: no access sequence stops CORE, and with no event waiting
nothing changes (log entry 3, the model's choice). -/
def Obligations.NoStepStops : Prop :=
  ∀ s : State, (∃ t, step s = .next t) ∧ (s.pending = [] → step s = .next s)

/-! ## The register window -/

/-- R82, R83, R85, R88, R89, R308: an access of any size but 4, at a misaligned or at an unmapped offset, is answered BUSERR,
a read with data 0, and changes no state of CORE; every other access is answered OKAY. R82 and R308 name the sizes 1 and 2;
that every other size but 4 is answered alike is read from the test size = 4 of R88 and R89 (DEDUCED, log entry 19). -/
def Obligations.BusErrorChangesNothing : Prop :=
  ∀ (s : State) (off : Offset) (size : Nat) (v : Word) (rest : List PlatformEvent),
    ((size ≠ 4 ∨ off.toNat % 4 ≠ 0 ∨ 0x90 ≤ off.toNat) →
      (s.pending = .access (.read off size) :: rest →
        step s = .next { s with pending := rest, resp := some (.readDone .busErr 0x00000000#32) }) ∧
      (s.pending = .access (.write off size v) :: rest →
        step s = .next { s with pending := rest, resp := some (.writeDone .busErr) })) ∧
    (size = 4 → off.toNat % 4 = 0 → off.toNat < 0x90 →
      (s.pending = .access (.read off size) :: rest →
        ∃ t d, step s = .next t ∧ t.resp = some (.readDone .okay d)) ∧
      (s.pending = .access (.write off size v) :: rest →
        ∃ t, step s = .next t ∧ t.resp = some (.writeDone .okay)))

/-- R84, R36, R88, R44, R50, R324: the register map, with each name's offset and access and the latch or parameter it reads,
written out; a word read at a register's offset returns its word and changes nothing, so a second read returns the same;
and every mapped aligned offset is the offset of exactly one register. CMD reads 0. -/
def Obligations.ReadReturnsRegister : Prop :=
  (∀ r : RegName, (r, regOffset r, regAccess r) ∈ (
    [ (.cmd, 0x00#8, .wo), (.status, 0x04#8, .w1c), (.pFs, 0x08#8, .rw), (.pCut, 0x0C#8, .rw), (.pRes, 0x10#8, .rw),
      (.pWta, 0x14#8, .rw), (.pWtb, 0x18#8, .rw), (.pWtc, 0x1C#8, .rw), (.pWtd, 0x20#8, .rw), (.pWte, 0x24#8, .rw),
      (.pIn, 0x28#8, .rw), (.out, 0x2C#8, .ro), (.afs, 0x30#8, .ro), (.acut, 0x34#8, .ro), (.ares, 0x38#8, .ro),
      (.b0, 0x3C#8, .ro), (.b1, 0x40#8, .ro), (.a1, 0x44#8, .ro), (.rg, 0x48#8, .ro), (.wta, 0x4C#8, .ro),
      (.wtb, 0x50#8, .ro), (.wtc, 0x54#8, .ro), (.wtd, 0x58#8, .ro), (.wte, 0x5C#8, .ro), (.s1pi, 0x60#8, .ro),
      (.s1po, 0x64#8, .ro), (.s2pi, 0x68#8, .ro), (.s2po, 0x6C#8, .ro), (.s3pi, 0x70#8, .ro), (.s3po, 0x74#8, .ro),
      (.s4pi, 0x78#8, .ro), (.s4po, 0x7C#8, .ro), (.fbr, 0x80#8, .ro), (.cgain, 0x84#8, .ro), (.epshz, 0x88#8, .ro),
      (.ecmd, 0x8C#8, .ro) ] :
      List (RegName × Offset × RegAccess))) ∧
  (∀ (s : State) (r : RegName), (r, readReg s r) ∈ (
    [ (.cmd, 0x00000000#32), (.status, statusWord s.status), (.pFs, s.pFs), (.pCut, s.pCut), (.pRes, s.pRes),
      (.pWta, s.pWt.a), (.pWtb, s.pWt.b), (.pWtc, s.pWt.c), (.pWtd, s.pWt.d), (.pWte, s.pWt.e), (.pIn, s.pIn),
      (.out, s.out), (.afs, s.afs), (.acut, s.acut), (.ares, s.ares), (.b0, s.b0), (.b1, s.b1), (.a1, s.a1),
      (.rg, s.rg), (.wta, s.wt.a), (.wtb, s.wt.b), (.wtc, s.wt.c), (.wtd, s.wt.d), (.wte, s.wt.e), (.s1pi, s.s1.pi),
      (.s1po, s.s1.po), (.s2pi, s.s2.pi), (.s2po, s.s2.po), (.s3pi, s.s3.pi), (.s3po, s.s3.po), (.s4pi, s.s4.pi),
      (.s4po, s.s4.po), (.fbr, s.fbr), (.cgain, Config.compGain), (.epshz, Config.epsHz), (.ecmd, s.ecmd) ] :
      List (RegName × Word))) ∧
  (∀ (s : State) (r : RegName) (rest : List PlatformEvent),
    s.pending = .access (.read (regOffset r) 4) :: rest →
    ∃ t, step s = .next t ∧
      t = { s with pending := rest, resp := some (.readDone .okay (readReg s r)) } ∧
      ∀ r', readReg t r' = readReg s r') ∧
  (∀ off : Offset, off.toNat % 4 = 0 → off.toNat < 0x90 →
    ∃ r, regOffset r = off ∧ ∀ r', regOffset r' = off → r' = r)

/-- R89, R84: a word write to a read-only register is answered OKAY and ignored. -/
def Obligations.ReadOnlyWriteIgnored : Prop :=
  ∀ (s : State) (r : RegName) (v : Word) (rest : List PlatformEvent),
    regAccess r = .ro → s.pending = .access (.write (regOffset r) 4 v) :: rest →
    step s = .next { s with pending := rest, resp := some (.writeDone .okay) }

/-- R43, R89: a word write to a staging register stores the raw pattern there, any pattern, and every other register of
the window, STATUS and ECMD among them, reads as before. -/
def Obligations.StagingWriteKeepsPattern : Prop :=
  ∀ (s : State) (r : RegName) (v : Word) (rest : List PlatformEvent),
    regAccess r = .rw → s.pending = .access (.write (regOffset r) 4 v) :: rest →
    ∃ t, step s = .next t ∧ readReg t r = v ∧ (∀ r', r' ≠ r → readReg t r' = readReg s r') ∧
      t.status = s.status ∧ t.pending = rest ∧ t.resp = some (.writeDone .okay)

/-- R48, R89: a word write to STATUS clears exactly the bits 13:8 whose write bit is 1, and changes no other bit and no
other register. -/
def Obligations.StatusWriteClearsWrittenOnes : Prop :=
  ∀ (s : State) (v : Word) (rest : List PlatformEvent),
    s.pending = .access (.write 0x04#8 4 v) :: rest →
    ∃ t, step s = .next t ∧
      (∀ k, 8 ≤ k → k ≤ 13 →
        (readReg t .status).getLsbD k = ((readReg s .status).getLsbD k && !v.getLsbD k)) ∧
      (∀ k, k < 8 ∨ 13 < k → (readReg t .status).getLsbD k = (readReg s .status).getLsbD k) ∧
      (∀ r, r ≠ .status → readReg t r = readReg s r) ∧
      t.pending = rest ∧ t.resp = some (.writeDone .okay)

/-- R45, R46: the bits of the word STATUS reads as. READY is INITED AND CVALID and the reserved bits read 0. -/
def Obligations.StatusWordLayout : Prop :=
  ∀ (s : State),
    let w := readReg s .status
    w.getLsbD 0 = s.status.inited ∧ w.getLsbD 1 = s.status.cvalid ∧
    w.getLsbD 2 = (s.status.inited && s.status.cvalid) ∧
    w.getLsbD 3 = s.status.cutcl ∧ w.getLsbD 4 = s.status.rescl ∧
    (∀ c : Cause, w.getLsbD (causeCode c) = stickyBit s.status c) ∧
    (∀ k, 5 ≤ k ∧ k ≤ 7 ∨ 14 ≤ k → w.getLsbD k = false)

/-- R81, whole: BASE is a multiple of 256; an address in BASE to BASE+0xFF reaches CORE at the offset of its distance from
BASE, which is the address's bits 7:0, and an access at any other address does not reach it. -/
def Obligations.WindowSelectsOffset : Prop :=
  Config.base % 0x100 = 0 ∧
  ∀ (addr size : Nat) (v : Word) (s : State),
    (∀ k < 0x100, addr = Config.base + k →
      addr % 0x100 = k ∧
      issueRead Config.base addr size s =
        { s with pending := s.pending ++ [.access (.read (BitVec.ofNat 8 k) size)] } ∧
      issueWrite Config.base addr size v s =
        { s with pending := s.pending ++ [.access (.write (BitVec.ofNat 8 k) size v)] }) ∧
    (addr < Config.base ∨ Config.base + 0xFF < addr →
      issueRead Config.base addr size s = s ∧ issueWrite Config.base addr size v s = s)

/-- R86: byte k of a register in the window is bits 8k+7 to 8k of its word. -/
def Obligations.WindowBytesLittleEndian : Prop :=
  ∀ (s : State) (r : RegName) (k : Nat), k < 4 →
    windowByte s (regOffset r + BitVec.ofNat 8 k) = some ((readReg s r).extractLsb' (8 * k) 8)

/-! ## Reset -/

/-- R56, R340: after hardware reset every register reads 0, STATUS included, except CGAIN and EPSHZ, which read the
parameters, and the mode is UNINIT. -/
def Obligations.ResetRegisterValues : Prop :=
  (∀ r : RegName, r ≠ .cgain → r ≠ .epshz → readReg State.reset r = 0x00000000#32) ∧
  readReg State.reset .cgain = Config.compGain ∧ readReg State.reset .epshz = Config.epsHz ∧
  modeOf State.reset.status = some .uninit

/-- R340, R342: a hardware reset gives every register its reset value, whatever it held; CGAIN and EPSHZ read as before.
That the events after it wait on is the model's choice (log entry 12). -/
def Obligations.HardwareResetRestoresAll : Prop :=
  ∀ (s : State) (rest : List PlatformEvent), s.pending = .hwReset :: rest →
    ∃ t, step s = .next t ∧ (∀ r, readReg t r = readReg State.reset r) ∧
      readReg t .cgain = readReg s .cgain ∧ readReg t .epshz = readReg s .epshz ∧
      t.status = Status.zero ∧ t.pending = rest

/-- R346, R347: after hardware reset INIT without a sample rate is rejected with E_CFG, SETP and PROC with E_SEQ, and NOP
and RESET run. -/
def Obligations.FreshCoreNeedsSampleRate : Prop :=
  exec .init State.reset =
    .next { State.reset with status := { Status.zero with eCfg := true }, ecmd := 0x00000001#32 } ∧
  exec .setp State.reset =
    .next { State.reset with status := { Status.zero with eSeq := true }, ecmd := 0x00000002#32 } ∧
  exec .proc State.reset =
    .next { State.reset with status := { Status.zero with eSeq := true }, ecmd := 0x00000003#32 } ∧
  exec .nop State.reset = .next State.reset ∧ exec .reset State.reset = .next State.reset

/-! ## The commands -/

/-- R255, whole: NOP is the word 0, runs in every mode, changes nothing and raises nothing; a word with OP = 0 and RSV not
0 is illegal. -/
def Obligations.NopChangesNothing : Prop :=
  encode .nop = 0x00000000#32 ∧ (∀ s : State, exec .nop s = .next s) ∧
  (∀ w : Word, opField w = 0 → rsvField w ≠ 0 → decode w = .illegal .reservedBits)

/-- R258: INIT with a finite positive sample rate, in every mode, and what it leaves. Every register it does not name is
unchanged. -/
def Obligations.InitStartsStream : Prop :=
  ∀ s : State, isFinite s.pFs = true → fgt s.pFs 0x00000000#32 = true →
    exec .init s = .next { s with
      afs := s.pFs
      s1 := ⟨0x00000000#32, 0x00000000#32⟩
      s2 := ⟨0x00000000#32, 0x00000000#32⟩
      s3 := ⟨0x00000000#32, 0x00000000#32⟩
      s4 := ⟨0x00000000#32, 0x00000000#32⟩
      fbr := 0x00000000#32
      out := 0x00000000#32
      b0 := 0x00000000#32
      b1 := 0x00000000#32
      a1 := 0x00000000#32
      rg := 0x00000000#32
      wt := ⟨0x00000000#32, 0x00000000#32, 0x00000000#32, 0x00000000#32, 0x00000000#32⟩
      acut := 0x00000000#32
      ares := 0x00000000#32
      status := { s.status with inited := true, cvalid := false, cutcl := false, rescl := false } }

/-- R303, whole, and of R259 and R358 the first commands after it: INIT with a sample rate that is a zero, negative, an
infinity or a NaN, and no other, is rejected with E_CFG, drops the mode to UNINIT, and changes nothing else; a SETP or a PROC
right after it is rejected with E_SEQ. -/
def Obligations.InitRejectsInvalidRate : Prop :=
  ∀ s : State,
    (sampleRateValid s.pFs = false ↔
      isZero s.pFs = true ∨ signBit s.pFs = true ∨ isInf s.pFs = true ∨ isNaN s.pFs = true) ∧
    (sampleRateValid s.pFs = false → ∃ t,
      exec .init s = .next t ∧
      t = { s with
        status := { s.status with inited := false, cvalid := false, eCfg := true }
        ecmd := 0x00000001#32 } ∧
      modeOf t.status = some .uninit ∧
      exec .setp t = .next { t with status := { t.status with eSeq := true }, ecmd := 0x00000002#32 } ∧
      exec .proc t = .next { t with status := { t.status with eSeq := true }, ecmd := 0x00000003#32 })

/-- R263 with R181 to R187: SETP with INITED set and valid operands, and every value it latches. Every register it does
not name is unchanged. -/
def Obligations.SetpPublishesActiveSet : Prop :=
  ∀ s : State, s.status.inited = true →
    isNaN s.pCut = false → isNaN s.pRes = false → weightsFinite s.pWt = true →
    let hi := fmul K_NYQ s.afs
    let c1 := if flt s.pCut Config.epsHz then Config.epsHz else s.pCut
    let acut := if fgt c1 hi then hi else c1
    let r1 := if flt s.pRes K_RMIN then K_RMIN else s.pRes
    let ares := if fgt r1 K_RMAX then K_RMAX else r1
    let wc := fmul K_2PI (fdiv acut s.afs)
    let w2 := fmul wc wc
    let w3 := fmul w2 wc
    let w4 := fmul w3 wc
    let g := fsub (fadd (fsub (fmul K_G1 wc) (fmul K_G2 w2)) (fmul K_G3 w3)) (fmul K_G4 w4)
    let pr := fadd (fsub (fadd K_R0 (fmul K_R1 wc)) (fmul K_R2 w2)) (fmul K_R3 w3)
    exec .setp s = .next { s with
      acut := acut
      ares := ares
      b0 := fdiv g K_DIV
      b1 := fdiv (fmul g K_SKEW) K_DIV
      a1 := fsub K_ONE g
      rg := fmul ares pr
      wt := s.pWt
      status := { s.status with
        cutcl := flt s.pCut Config.epsHz || fgt c1 hi
        rescl := flt s.pRes K_RMIN || fgt r1 K_RMAX
        cvalid := true } }

/-- R301, whole: SETP with INITED set and a NaN cutoff or resonance or a weight that is not finite is rejected with E_PARAM;
the active set stays. -/
def Obligations.SetpRejectsBadOperand : Prop :=
  ∀ s : State, s.status.inited = true →
    (isNaN s.pCut = true ∨ isNaN s.pRes = true ∨
      isFinite s.pWt.a = false ∨ isFinite s.pWt.b = false ∨ isFinite s.pWt.c = false ∨
      isFinite s.pWt.d = false ∨ isFinite s.pWt.e = false) →
    exec .setp s =
      .next { s with status := { s.status with eParam := true }, ecmd := 0x00000002#32 }

/-- R305: SETP with INITED clear, and PROC with READY clear, are rejected with E_SEQ, whatever their operands. -/
def Obligations.OutOfSequenceRejected : Prop :=
  ∀ s : State,
    (s.status.inited = false →
      exec .setp s = .next { s with status := { s.status with eSeq := true }, ecmd := 0x00000002#32 }) ∧
    ((s.status.inited && s.status.cvalid) = false →
      exec .proc s = .next { s with status := { s.status with eSeq := true }, ecmd := 0x00000003#32 })

/-- R230 with R210, R212, R216, R217, R220, R222, R225 and R231: an accepted PROC, every latch it writes, and NF_OUT. Every
register it does not name is unchanged. -/
def Obligations.ProcRunsDatapath : Prop :=
  ∀ s : State, s.status.inited = true → s.status.cvalid = true → isNaN s.pIn = false →
    let k4 := fmul K_FOUR s.rg
    let drive := fadd K_ONE (fmul k4 Config.compGain)
    let fb := fsub (fmul drive s.pIn) (fmul k4 s.fbr)
    let nl := Config.tanh fb
    let out1 := fadd (fadd (fmul s.b0 nl) (fmul s.b1 s.s1.pi)) (fmul s.a1 s.s1.po)
    let out2 := fadd (fadd (fmul s.b0 out1) (fmul s.b1 s.s2.pi)) (fmul s.a1 s.s2.po)
    let out3 := fadd (fadd (fmul s.b0 out2) (fmul s.b1 s.s3.pi)) (fmul s.a1 s.s3.po)
    let out4 := fadd (fadd (fmul s.b0 out3) (fmul s.b1 s.s4.pi)) (fmul s.a1 s.s4.po)
    let y := fadd (fadd (fadd (fadd (fmul nl s.wt.a) (fmul out1 s.wt.b)) (fmul out2 s.wt.c))
      (fmul out3 s.wt.d)) (fmul out4 s.wt.e)
    exec .proc s = .next { s with
      s1 := ⟨nl, out1⟩
      s2 := ⟨out1, out2⟩
      s3 := ⟨out2, out3⟩
      s4 := ⟨out3, out4⟩
      fbr := out4
      out := y
      status := { s.status with nfOut := s.status.nfOut || !isFinite y } }

/-- R302, whole: PROC with READY set and a NaN of any payload in P_IN is rejected with E_NANIN; no latch and not OUT
changes. -/
def Obligations.ProcRejectsNanInput : Prop :=
  ∀ s : State, s.status.inited = true → s.status.cvalid = true → isNaN s.pIn = true →
    exec .proc s =
      .next { s with status := { s.status with eNanin := true }, ecmd := 0x00000003#32 }

/-- R231, R306: a PROC whose output is not finite completes, commits its latches and the output, sets NF_OUT, and leaves ECMD
alone. The output affects no later sample: whatever events follow, staging writes, commands, reads and resets among them,
the machine goes on as it would with any other word in OUT, OUT itself and the answer to a read apart, and every PROC
accepted later gives the same OUT and the same filter memory. -/
def Obligations.NonFiniteOutputOnlyNotifies : Prop :=
  ∀ s : State, reportedCause (encode .proc) s = some .nfOut →
    let taps := computeTaps Config.compGain Config.tanh s s.pIn
    ∃ t, exec .proc s = .next t ∧ isFinite t.out = false ∧ t.status.nfOut = true ∧ t.ecmd = s.ecmd ∧
      t.out = mixTaps taps s.wt ∧
      filterMemory t = [taps.nl, taps.out1, taps.out1, taps.out2, taps.out2, taps.out3, taps.out3, taps.out4, taps.out4] ∧
      ∀ (events : List PlatformEvent) (n : Nat) (y : Word), ∃ u u' : State,
        Sys2Proof.core.run n { t with pending := events } = .next u ∧
        Sys2Proof.core.run n { t with out := y, pending := events } = .next u' ∧
        u' = { u with out := u'.out, resp := u'.resp } ∧
        (ready u.status = true → isNaN u.pIn = false →
          ∃ v v', exec .proc u = .next v ∧ exec .proc u' = .next v' ∧
            v.out = v'.out ∧ filterMemory v = filterMemory v')

/-- R270: RESET, in every mode, zeroes the nine latches and OUT and changes nothing else. -/
def Obligations.ResetZeroesFilterMemory : Prop :=
  ∀ s : State, exec .reset s = .next { s with
    s1 := ⟨0x00000000#32, 0x00000000#32⟩
    s2 := ⟨0x00000000#32, 0x00000000#32⟩
    s3 := ⟨0x00000000#32, 0x00000000#32⟩
    s4 := ⟨0x00000000#32, 0x00000000#32⟩
    fbr := 0x00000000#32
    out := 0x00000000#32 }

/-! ## Rules over the whole machine -/

/-- R307, whole: each CMD write sets the sticky bit of at most one cause, the first that applies in the order decode, mode,
operand, result, and clears none. -/
def Obligations.OneCauseInPriorityOrder : Prop :=
  ∀ (w : Word) (s : State), ∃ t, execute w s = .next t ∧
    ∀ c : Cause, stickyBit t.status c = (stickyBit s.status c || decide (reportedCause w s = some c))

/-- R49, whole: ECMD takes the word of a rejected command, 0 at hardware reset, and is written by nothing else; a PROC that
sets NF_OUT does not write it. -/
def Obligations.EcmdHoldsLastRejectedWord : Prop :=
  ∀ s t : State, step s = .next t →
    (servesReset s = true → t.ecmd = 0x00000000#32) ∧
    (∀ w, servedCommand s = some w →
      t.ecmd = (match reportedCause w s with
        | none => s.ecmd
        | some .nfOut => s.ecmd
        | some _ => w)) ∧
    (servesReset s = false → servedCommand s = none → t.ecmd = s.ecmd)

/-- R33, R34, R42: only an accepted PROC, RESET, a valid INIT and hardware reset write the filter memory or OUT. -/
def Obligations.FilterMemoryWriters : Prop :=
  ∀ s t : State, step s = .next t → (filterMemory t ≠ filterMemory s ∨ t.out ≠ s.out) →
    servesReset s = true ∨ servedCommand s = some 0x00000004#32 ∨
    (servedCommand s = some 0x00000001#32 ∧ sampleRateValid s.pFs = true) ∨
    (servedCommand s = some 0x00000003#32 ∧ ready s.status = true ∧ isNaN s.pIn = false)

/-- R37, R39, R40, R41: only a successful SETP, a valid INIT and hardware reset write the active set, and only the last two
write AFS. -/
def Obligations.ActiveSetWriters : Prop :=
  ∀ s t : State, step s = .next t →
    (activeSet t ≠ activeSet s →
      servesReset s = true ∨
      (servedCommand s = some 0x00000001#32 ∧ sampleRateValid s.pFs = true) ∨
      (servedCommand s = some 0x00000002#32 ∧ s.status.inited = true ∧
        setpOperandsValid s.pCut s.pRes s.pWt = true)) ∧
    (t.afs ≠ s.afs →
      servesReset s = true ∨ (servedCommand s = some 0x00000001#32 ∧ sampleRateValid s.pFs = true))

/-- R46 and R47, whole: what sets and clears INITED and CVALID, what READY reads, and what writes CUTCL and RESCL and
with which values. -/
def Obligations.ModeBitWriters : Prop :=
  ∀ s t : State, step s = .next t →
    (s.status.inited = false → t.status.inited = true →
      servedCommand s = some 0x00000001#32 ∧ sampleRateValid s.pFs = true) ∧
    (s.status.inited = true → t.status.inited = false →
      servesReset s = true ∨ (servedCommand s = some 0x00000001#32 ∧ sampleRateValid s.pFs = false)) ∧
    (s.status.cvalid = false → t.status.cvalid = true →
      servedCommand s = some 0x00000002#32 ∧ s.status.inited = true ∧
        setpOperandsValid s.pCut s.pRes s.pWt = true) ∧
    (s.status.cvalid = true → t.status.cvalid = false →
      servesReset s = true ∨ servedCommand s = some 0x00000001#32) ∧
    (servedCommand s = some 0x00000001#32 →
      t.status.inited = sampleRateValid s.pFs ∧ t.status.cvalid = false) ∧
    (servesReset s = true → t.status.inited = false ∧ t.status.cvalid = false) ∧
    (readReg t .status).getLsbD 2 = (t.status.inited && t.status.cvalid) ∧
    (servedCommand s = some 0x00000002#32 → s.status.inited = true →
      setpOperandsValid s.pCut s.pRes s.pWt = true →
      t.status.cvalid = true ∧ t.status.cutcl = cutoffClamped Config.epsHz s.afs s.pCut ∧
        t.status.rescl = resonanceClamped s.pRes) ∧
    (servesReset s = true ∨ servedCommand s = some 0x00000001#32 ∧ sampleRateValid s.pFs = true →
      t.status.cutcl = false ∧ t.status.rescl = false) ∧
    (t.status.cutcl ≠ s.status.cutcl ∨ t.status.rescl ≠ s.status.rescl →
      servesReset s = true ∨
      (servedCommand s = some 0x00000001#32 ∧ sampleRateValid s.pFs = true) ∨
      (servedCommand s = some 0x00000002#32 ∧ s.status.inited = true ∧
        setpOperandsValid s.pCut s.pRes s.pWt = true))

/-- R43: only a word write to a staging register and hardware reset write the staging registers; no command does. -/
def Obligations.StagingWriters : Prop :=
  (∀ (i : Instr) (s t : State), exec i s = .next t → staging t = staging s) ∧
  (∀ s t : State, step s = .next t → staging t ≠ staging s →
    servesReset s = true ∨
    ∃ r v rest, regAccess r = .rw ∧ s.pending = .access (.write (regOffset r) 4 v) :: rest)

/-- R351: what is staged for INIT and SETP has no effect on PROC. -/
def Obligations.StagedParametersInvisibleToProc : Prop :=
  ∀ (s t : State) (fs cut res : Word) (w : Weights), exec .proc s = .next t →
    exec .proc { s with pFs := fs, pCut := cut, pRes := res, pWt := w } =
      .next { t with pFs := fs, pCut := cut, pRes := res, pWt := w }

/-- R127, R48: the pseudo-instruction clrerr is one write to STATUS, which clears every sticky bit and changes no other
register. -/
def Obligations.ClrerrClearsStickyBits : Prop :=
  ∀ s : State, s.pending = programEvents (expandPseudo .clrerr) →
    step s = .next { s with
      status := { s.status with
        eCfg := false, eParam := false, eSeq := false, eNanin := false, eIll := false, nfOut := false }
      pending := []
      resp := some (.writeDone .okay) }

/-! ## Arithmetic -/

/-- R151, R152: the sum and the difference of finite operands are the finite value nearest the exact one, ties to even, with
its sign, and infinite from 2^128 - 2^103 on. -/
def Obligations.AddSubRoundToNearestEven : Prop :=
  ∀ a b : Word, isFinite a = true → isFinite b = true →
    (|scaled a + scaled b| < overflowLimit → nearestEven (fadd a b) (scaled a + scaled b) 1) ∧
    (overflowLimit ≤ |scaled a + scaled b| → fadd a b = infOf (decide (scaled a + scaled b < 0))) ∧
    (scaled a + scaled b ≠ 0 → signBit (fadd a b) = decide (scaled a + scaled b < 0)) ∧
    (|scaled a - scaled b| < overflowLimit → nearestEven (fsub a b) (scaled a - scaled b) 1) ∧
    (overflowLimit ≤ |scaled a - scaled b| → fsub a b = infOf (decide (scaled a - scaled b < 0))) ∧
    (scaled a - scaled b ≠ 0 → signBit (fsub a b) = decide (scaled a - scaled b < 0))

/-- R151, R152: the product of finite operands is the finite value nearest the exact one, ties to even, infinite from
2^128 - 2^103 on, and its sign is the exclusive or of the signs, zeros included. -/
def Obligations.MulRoundsToNearestEven : Prop :=
  ∀ a b : Word, isFinite a = true → isFinite b = true →
    (|scaled a * scaled b| < overflowLimit * 2 ^ 149 →
      nearestEven (fmul a b) (scaled a * scaled b) (2 ^ 149)) ∧
    (overflowLimit * 2 ^ 149 ≤ |scaled a * scaled b| → fmul a b = infOf (signBit a != signBit b)) ∧
    signBit (fmul a b) = (signBit a != signBit b)

/-- R151, R152: the quotient of finite operands with a divisor that is not zero is the finite value nearest the exact one,
ties to even, and infinite from 2^128 - 2^103 on. -/
def Obligations.DivRoundsToNearestEven : Prop :=
  ∀ a b : Word, isFinite a = true → isFinite b = true → isZero b = false →
    (|scaled a * 2 ^ 149| < overflowLimit * |scaled b| →
      nearestEven (fdiv a b) (scaled a * 2 ^ 149) (scaled b)) ∧
    (overflowLimit * |scaled b| ≤ |scaled a * 2 ^ 149| → fdiv a b = infOf (signBit a != signBit b)) ∧
    signBit (fdiv a b) = (signBit a != signBit b)

/-- R152, R153: the special operands of addition, subtraction and multiplication, and the one NaN every primitive
produces. The results the table of R152 leaves out (an infinity as the right operand, two infinities that do not cancel,
-∞ and a finite value, an infinity times a value that is not zero) are IEEE 754's, as its first words say (PRESUMED, log
entry 9). -/
def Obligations.SpecialOperandResults : Prop :=
  (∀ a b : Word, isNaN a = true ∨ isNaN b = true →
    fadd a b = 0x7FC00000#32 ∧ fsub a b = 0x7FC00000#32 ∧ fmul a b = 0x7FC00000#32 ∧
    fdiv a b = 0x7FC00000#32) ∧
  (∀ a b : Word, (isNaN (fadd a b) = true → fadd a b = 0x7FC00000#32) ∧
    (isNaN (fsub a b) = true → fsub a b = 0x7FC00000#32) ∧
    (isNaN (fmul a b) = true → fmul a b = 0x7FC00000#32) ∧
    (isNaN (fdiv a b) = true → fdiv a b = 0x7FC00000#32)) ∧
  (fadd 0x7F800000#32 0xFF800000#32 = 0x7FC00000#32 ∧ fadd 0xFF800000#32 0x7F800000#32 = 0x7FC00000#32 ∧
    fsub 0x7F800000#32 0x7F800000#32 = 0x7FC00000#32 ∧ fsub 0xFF800000#32 0xFF800000#32 = 0x7FC00000#32) ∧
  (∀ a b : Word, isZero a = true → isInf b = true →
    fmul a b = 0x7FC00000#32 ∧ fmul b a = 0x7FC00000#32) ∧
  (∀ a : Word, isFinite a = true →
    fadd 0x7F800000#32 a = 0x7F800000#32 ∧ fsub 0x7F800000#32 a = 0x7F800000#32 ∧
    fadd 0xFF800000#32 a = 0xFF800000#32 ∧ fsub 0xFF800000#32 a = 0xFF800000#32 ∧
    fadd a 0x7F800000#32 = 0x7F800000#32 ∧ fadd a 0xFF800000#32 = 0xFF800000#32 ∧
    fsub a 0x7F800000#32 = 0xFF800000#32 ∧ fsub a 0xFF800000#32 = 0x7F800000#32) ∧
  (fadd 0x7F800000#32 0x7F800000#32 = 0x7F800000#32 ∧ fadd 0xFF800000#32 0xFF800000#32 = 0xFF800000#32 ∧
    fsub 0x7F800000#32 0xFF800000#32 = 0x7F800000#32 ∧ fsub 0xFF800000#32 0x7F800000#32 = 0xFF800000#32) ∧
  (∀ a b : Word, isInf a = true → isNaN b = false → isZero b = false →
    fmul a b = infOf (signBit a != signBit b) ∧ fmul b a = infOf (signBit a != signBit b)) ∧
  (∀ a : Word, isFinite a = true → fsub a a = 0x00000000#32) ∧
  (fadd 0x00000000#32 0x80000000#32 = 0x00000000#32 ∧ fadd 0x80000000#32 0x00000000#32 = 0x00000000#32 ∧
    fadd 0x80000000#32 0x80000000#32 = 0x80000000#32 ∧ fsub 0x80000000#32 0x00000000#32 = 0x80000000#32) ∧
  (∀ a b : Word, isNaN (fmul a b) = false → signBit (fmul a b) = (signBit a != signBit b))

/-- R155, whole: the tests are field tests, and the comparisons order the values: false on a NaN, by value on finite
operands (so -0 and +0 are equal), with the infinities at the ends whichever operand they are, each equal to itself and to
nothing else. -/
def Obligations.ComparisonsOrderValues : Prop :=
  (∀ v : Word,
    (isNaN v = true ↔ v.extractLsb' 23 8 = 0xFF#8 ∧ v.extractLsb' 0 23 ≠ 0#23) ∧
    (isInf v = true ↔ v.extractLsb' 23 8 = 0xFF#8 ∧ v.extractLsb' 0 23 = 0#23) ∧
    (isFinite v = true ↔ v.extractLsb' 23 8 ≠ 0xFF#8)) ∧
  (∀ a b : Word, isNaN a = true ∨ isNaN b = true → flt a b = false ∧ fgt a b = false ∧ feq a b = false) ∧
  (∀ a b : Word, isFinite a = true → isFinite b = true →
    (flt a b = true ↔ scaled a < scaled b) ∧ (fgt a b = true ↔ scaled b < scaled a) ∧
    (feq a b = true ↔ scaled a = scaled b)) ∧
  (∀ a : Word, isFinite a = true →
    flt a 0x7F800000#32 = true ∧ fgt a 0x7F800000#32 = false ∧
    flt a 0xFF800000#32 = false ∧ fgt a 0xFF800000#32 = true ∧
    flt 0x7F800000#32 a = false ∧ fgt 0x7F800000#32 a = true ∧
    flt 0xFF800000#32 a = true ∧ fgt 0xFF800000#32 a = false ∧
    feq a 0x7F800000#32 = false ∧ feq 0x7F800000#32 a = false ∧
    feq a 0xFF800000#32 = false ∧ feq 0xFF800000#32 a = false) ∧
  (flt 0xFF800000#32 0x7F800000#32 = true ∧ fgt 0xFF800000#32 0x7F800000#32 = false ∧
    flt 0x7F800000#32 0xFF800000#32 = false ∧ fgt 0x7F800000#32 0xFF800000#32 = true ∧
    feq 0x7F800000#32 0xFF800000#32 = false ∧ feq 0xFF800000#32 0x7F800000#32 = false) ∧
  (∀ a : Word, isInf a = true → flt a a = false ∧ fgt a a = false ∧ feq a a = true)

/-- R154: each decimal constant is the binary32 value nearest its literal, rounded as the model rounds. -/
def Obligations.DecimalConstantsNearest : Prop :=
  K_G1 = roundTo false (9892 * 2 ^ 149) 10000 ∧ K_G2 = roundTo false (4342 * 2 ^ 149) 10000 ∧
  K_G3 = roundTo false (1381 * 2 ^ 149) 10000 ∧ K_G4 = roundTo false (202 * 2 ^ 149) 10000 ∧
  K_R0 = roundTo false (10029 * 2 ^ 149) 10000 ∧ K_R1 = roundTo false (526 * 2 ^ 149) 10000 ∧
  K_R2 = roundTo false (926 * 2 ^ 149) 10000 ∧ K_R3 = roundTo false (218 * 2 ^ 149) 10000 ∧
  K_DIV = roundTo false (13 * 2 ^ 149) 10 ∧ K_SKEW = roundTo false (3 * 2 ^ 149) 10 ∧
  K_NYQ = roundTo false (49 * 2 ^ 149) 100 ∧ K_ONE = roundTo false (2 ^ 149) 1 ∧
  K_FOUR = roundTo false (4 * 2 ^ 149) 1 ∧ K_RMAX = roundTo false (2 ^ 149) 1 ∧ K_RMIN = roundTo false 0 1

/-- R154: K_2PI is the binary32 value nearest 2π: no finite value is nearer. -/
def Obligations.TwoPiConstantNearest : Prop :=
  ∀ z : Word, isFinite z = true →
    |(scaled K_2PI : ℝ) - 2 * Real.pi * 2 ^ 149| ≤ |(scaled z : ℝ) - 2 * Real.pi * 2 ^ 149|

/-- R8, R50: COMP_GAIN lies from +0 to 2^64 and EPS_HZ is finite and positive, whatever the instance. -/
def Obligations.ParametersAdmissible : Prop :=
  isFinite Config.compGain = true ∧ 0 ≤ scaled Config.compGain ∧ scaled Config.compGain ≤ 2 ^ 213 ∧
  isFinite Config.epsHz = true ∧ 0 < scaled Config.epsHz

/-- R160: the model's TANH satisfies the laws T2 to T4. -/
def Obligations.TanhSatisfiesLaws : Prop := TanhLaws Config.tanh

/-- R8, R160 (log entry 5): the model's TANH can be any admissible function: one that satisfies the laws is left unchanged
on every argument that is not a NaN. -/
def Obligations.EveryAdmissibleTanhCovered : Prop :=
  ∀ f : Word → Word, TanhLaws f → ∀ x : Word, isNaN x = false → Config.lawful f x = f x

/-- R161: the reference configuration TANH_CR satisfies the laws T2 to T4. That it is the nearest value is not stated here
(log entry 11). -/
def Obligations.ReferenceTanhSatisfiesLaws : Prop := TanhLaws tanhCR

/-! ## The coefficient evaluator -/

/-- R181: the clamped cutoff is finite, not negative and at most 0.49·fs; it is the operand where CUTCL is clear; it is a
bound where CUTCL is set, and the upper one where the bounds cross. -/
def Obligations.CutoffClampRange : Prop :=
  ∀ eps fs cut : Word, Config.epsHzAdmissible eps = true → sampleRateValid fs = true → isNaN cut = false →
    let acut := clampCutoff eps fs cut
    let hi := cutoffBound fs
    (isFinite acut = true ∧ signBit acut = false ∧ fgt acut hi = false) ∧
    (cutoffClamped eps fs cut = false → acut = cut) ∧
    (cutoffClamped eps fs cut = true → acut = eps ∨ acut = hi) ∧
    (flt hi eps = true → acut = hi) ∧
    (flt hi eps = false → flt acut eps = false) ∧
    (flt hi eps = false → cut = eps ∨ cut = hi → cutoffClamped eps fs cut = false) ∧
    (isInf cut = true → cutoffClamped eps fs cut = true) ∧
    (isZero cut = true → cutoffClamped eps fs cut = true)

/-- R182, whole: the clamped resonance is in [0, 1]; a value in it passes unchanged, -0 among them, with RESCL clear; a negative
value gives +0 and a value above 1 gives 1, with RESCL set. -/
def Obligations.ResonanceClampRange : Prop :=
  ∀ res : Word, isNaN res = false →
    inMillis (clampResonance res) 0 1000 ∧
    (flt res 0x00000000#32 = true → clampResonance res = 0x00000000#32 ∧ resonanceClamped res = true) ∧
    (fgt res 0x3F800000#32 = true → clampResonance res = 0x3F800000#32 ∧ resonanceClamped res = true) ∧
    (flt res 0x00000000#32 = false → fgt res 0x3F800000#32 = false →
      clampResonance res = res ∧ resonanceClamped res = false) ∧
    (res = 0x80000000#32 → clampResonance res = 0x80000000#32)

/-- R183: with a valid sample rate the ratio lies from +0 to 0.5 and wc from +0 to 0x40490FDB. -/
def Obligations.AngularCutoffRange : Prop :=
  ∀ eps fs cut : Word, Config.epsHzAdmissible eps = true → sampleRateValid fs = true → isNaN cut = false →
    let acut := clampCutoff eps fs cut
    signBit (fdiv acut fs) = false ∧ magBits (fdiv acut fs) ≤ magBits 0x3F000000#32 ∧
    inCutoffRange (angularCutoff acut fs)

/-- R185, R38: over the range of wc the computed stage gain lies from 0 to 1.157 and is never a negative zero. -/
def Obligations.StageGainRange : Prop :=
  ∀ wc : Word, inCutoffRange wc →
    inMillis (stageGain wc) 0 1157 ∧ signBit (stageGain wc) = false

/-- R186: over the range of wc the computed resonance polynomial lies from 0.896 to 1.011, so a resonance of +0 gives the
gain +0 and one of -0 gives -0. -/
def Obligations.ResonancePolynomialRange : Prop :=
  ∀ wc : Word, inCutoffRange wc →
    inMillis (resonancePoly wc) 896 1011 ∧
    resonanceGain 0x00000000#32 wc = 0x00000000#32 ∧ resonanceGain 0x80000000#32 wc = 0x80000000#32

/-- R38, whole: a successful SETP leaves every coefficient finite and in the stated range, and its stage gain is in range,
for every cutoff, resonance and valid sample rate. -/
def Obligations.SetpCoefficientsBounded : Prop :=
  ∀ s : State, s.status.inited = true → sampleRateValid s.afs = true →
    setpOperandsValid s.pCut s.pRes s.pWt = true →
    ∃ t, exec .setp s = .next t ∧
      inMillis (stageGain (angularCutoff t.acut t.afs)) 0 1157 ∧
      inMillis t.b0 0 890 ∧ inMillis t.b1 0 267 ∧ inMillis t.a1 (-157) 1000 ∧ inMillis t.rg 0 1011

/-- R190, R264: the worked example, with EPS_HZ = 1.0. -/
def Obligations.WorkedExampleCoefficients : Prop :=
  cpe 0x3F800000#32 0x472C4400#32 0x447A0000#32 0x3F000000#32 =
    { acut := 0x447A0000#32, ares := 0x3F000000#32, cutcl := false, rescl := false,
      b0 := 0x3DD0C2C9#32, b1 := 0x3CFA8358#32, a1 := 0x3F5E138C#32, rg := 0x3F011912#32 }

/-! ## The datapath -/

/-- R216: with an admissible COMP_GAIN, a gain RG of R38 and a bounded feedback register, the drive factor is finite and at
least 1, and the drive is no NaN for an input that is none. Where the input is infinite, or drive times the input
overflows, t4 is the infinity with the input's sign and the drive fb is t4. -/
def Obligations.FeedbackDriveNeverNan : Prop :=
  ∀ cg rg fbr x : Word, Config.compGainAdmissible cg = true → inMillis rg 0 1011 →
    magBits fbr ≤ powBits 100 → isNaN x = false →
    isFinite (driveGain cg rg) = true ∧ 2 ^ 149 ≤ scaled (driveGain cg rg) ∧
    isNaN (feedbackDrive cg rg fbr x) = false ∧
    (isInf x = true ∨
        isFinite x = true ∧ overflowLimit * 2 ^ 149 ≤ |scaled (driveGain cg rg) * scaled x| →
      fmul (driveGain cg rg) x = infOf (signBit x) ∧ feedbackDrive cg rg fbr x = infOf (signBit x))

/-- R216, R232: with RG = +0 the drive equals the input in value, and bit for bit unless the input is -0; then its sign
depends on the feedback register's sign. -/
def Obligations.ZeroResonanceHasNoFeedback : Prop :=
  ∀ cg fbr x : Word, Config.compGainAdmissible cg = true → isFinite fbr = true → isNaN x = false →
    let fb := feedbackDrive cg 0x00000000#32 fbr x
    feq fb x = true ∧ (x ≠ 0x80000000#32 → fb = x) ∧
    (x = 0x80000000#32 → fb = if signBit fbr then 0x00000000#32 else 0x80000000#32)

/-- R227, on the taps: with weights 0, 0, 0, 0 and 1 the mix of finite taps is out4 in value, and bit for bit unless out4 is -0 and
some product is +0; then it is +0. -/
def Obligations.MixerSelectsTopTap : Prop :=
  ∀ t : Taps, isFinite t.nl = true → isFinite t.out1 = true → isFinite t.out2 = true →
    isFinite t.out3 = true → isFinite t.out4 = true →
    let y := mixTaps t ⟨0x00000000#32, 0x00000000#32, 0x00000000#32, 0x00000000#32, 0x3F800000#32⟩
    let allNegative := signBit t.nl && signBit t.out1 && signBit t.out2 && signBit t.out3
    feq y t.out4 = true ∧
    (t.out4 ≠ 0x80000000#32 ∨ allNegative = true → y = t.out4) ∧
    (t.out4 = 0x80000000#32 → allNegative = false → y = 0x00000000#32)

/-- R233: from nine latches at +0, with coefficients of R38 and finite weights, any number of PROCs with input +0 changes
nothing but OUT, which is +0, or -0 when all five weights have their sign bit set. -/
def Obligations.ZeroInputKeepsZeroState : Prop :=
  ∀ (s : State) (n : Nat), 1 ≤ n →
    s.s1 = Stage.zero → s.s2 = Stage.zero → s.s3 = Stage.zero → s.s4 = Stage.zero → s.fbr = 0x00000000#32 →
    s.pIn = 0x00000000#32 → ready s.status = true → CoeffBounds s → weightsFinite s.wt = true →
    runProcs n s = .next { s with
      out := if signBit s.wt.a && signBit s.wt.b && signBit s.wt.c && signBit s.wt.d && signBit s.wt.e
        then 0x80000000#32 else 0x00000000#32 }

/-- R51, R52, R53, R38, R39: the invariant holds after hardware reset. -/
def Obligations.ResetMeetsInvariant : Prop := Inv State.reset

/-- R38, R39, R51, R52, R53: every step, whatever event it serves, keeps the invariant: the mode is legal, the coefficients
are in range, the weights finite, the latch pairs equal and every latch of the filter memory bounded. The magnitude bounds
of the latches are the model's own strengthening of R53. -/
def Obligations.EveryStepKeepsInvariant : Prop :=
  ∀ s t : State, Inv s → step s = .next t → Inv t

/-- R53: after any sequence of accesses, commands and hardware resets from reset, every latch of the filter memory is
finite. -/
def Obligations.FilterMemoryFiniteAlongEveryRun : Prop :=
  ∀ (events : List PlatformEvent) (n : Nat) (t : State),
    Sys2Proof.core.run n { State.reset with pending := events } = .next t →
    ∀ v ∈ filterMemory t, isFinite v = true
end

