-- ==== Sys2Proof/Laws/Numeric.lean ====
section
/-! SUPPORT. The binary32 format and the rounding function: what the fields of a packed pattern are, when a pattern is a
NaN, an infinity or finite, and that rounding is exact on representable magnitudes and monotone. -/

namespace Sys2Proof.Machine

/-! ## Fields -/

theorem magBits_lt (v : Word) : magBits v < 2 ^ 31 := Nat.mod_lt _ (by decide)

theorem expField_eq (v : Word) : expField v = magBits v / 2 ^ 23 := by
  unfold expField magBits; omega

theorem fracField_eq (v : Word) : fracField v = magBits v % 2 ^ 23 := by
  unfold fracField magBits; omega

theorem signBit_iff (v : Word) : signBit v = true ↔ 2 ^ 31 ≤ v.toNat := by
  have h := v.isLt
  simp only [signBit, BitVec.getLsbD, Nat.testBit, Nat.shiftRight_eq_div_pow, Nat.one_and_eq_mod_two, bne_iff_ne, ne_eq]
  omega

theorem toNat_eq (v : Word) : v.toNat = (if signBit v then 2 ^ 31 else 0) + magBits v := by
  have h := v.isLt
  by_cases hs : signBit v = true
  · have := (signBit_iff v).mp hs
    simp only [hs, if_true, magBits]; omega
  · have h2 : ¬ 2 ^ 31 ≤ v.toNat := fun h' => hs ((signBit_iff v).mpr h')
    simp only [hs, magBits]; simp; omega

/-- A pattern is its sign and its bits 30:0. -/
theorem word_ext {v w : Word} (hs : signBit v = signBit w) (hm : magBits v = magBits w) : v = w := by
  apply BitVec.eq_of_toNat_eq
  rw [toNat_eq v, toNat_eq w, hs, hm]

theorem isFinite_iff (v : Word) : isFinite v = true ↔ magBits v < infBits := by
  have h := magBits_lt v
  simp only [isFinite, expField_eq, infBits, bne_iff_ne, ne_eq]; omega

theorem isInf_iff (v : Word) : isInf v = true ↔ magBits v = infBits := by
  have h := magBits_lt v
  simp only [isInf, expField_eq, fracField_eq, infBits, Bool.and_eq_true, beq_iff_eq]; omega

theorem isNaN_iff (v : Word) : isNaN v = true ↔ infBits < magBits v := by
  have h := magBits_lt v
  simp only [isNaN, expField_eq, fracField_eq, infBits, Bool.and_eq_true, beq_iff_eq, bne_iff_ne, ne_eq]; omega

theorem isZero_iff (v : Word) : isZero v = true ↔ magBits v = 0 := by simp [isZero]

theorem isNaN_of_finite {v : Word} (h : isFinite v = true) : isNaN v = false := by
  rw [isFinite_iff] at h
  rw [← Bool.not_eq_true, isNaN_iff]; omega

theorem isInf_of_finite {v : Word} (h : isFinite v = true) : isInf v = false := by
  rw [isFinite_iff] at h
  rw [← Bool.not_eq_true, isInf_iff]; omega

/-- Every pattern is exactly one of finite, infinite and NaN. -/
theorem isFinite_eq (v : Word) : isFinite v = (!isInf v && !isNaN v) := by
  rw [Bool.eq_iff_iff]
  simp only [Bool.and_eq_true, Bool.not_eq_true', ← Bool.not_eq_true, isFinite_iff, isInf_iff, isNaN_iff]
  omega

/-! ## Packed patterns -/

theorem toNat_packBits {neg : Bool} {bits : Nat} (h : bits < 2 ^ 31) :
    (packBits neg bits).toNat = (if neg then 2 ^ 31 else 0) + bits := by
  cases neg <;> simp only [packBits, BitVec.toNat_ofNat] <;> simp <;> omega

theorem magBits_packBits {neg : Bool} {bits : Nat} (h : bits < 2 ^ 31) : magBits (packBits neg bits) = bits := by
  rw [magBits, toNat_packBits h]; cases neg <;> simp <;> omega

theorem signBit_packBits {neg : Bool} {bits : Nat} (h : bits < 2 ^ 31) : signBit (packBits neg bits) = neg := by
  rw [Bool.eq_iff_iff, signBit_iff, toNat_packBits h]; cases neg <;> simp; omega

/-- Packing the fields of a pattern gives it back. -/
theorem packBits_fields (v : Word) : packBits (signBit v) (magBits v) = v :=
  word_ext (signBit_packBits (magBits_lt v)) (magBits_packBits (magBits_lt v))

/-! ## Negation -/

@[simp] theorem magBits_fneg (v : Word) : magBits (fneg v) = magBits v := by
  simp only [magBits, fneg, BitVec.toNat_xor, Nat.xor_mod_two_pow]
  simp

@[simp] theorem signBit_fneg (v : Word) : signBit (fneg v) = !signBit v := by
  simp [signBit, fneg]

@[simp] theorem isNaN_fneg (v : Word) : isNaN (fneg v) = isNaN v := by
  rw [Bool.eq_iff_iff, isNaN_iff, isNaN_iff, magBits_fneg]

@[simp] theorem isInf_fneg (v : Word) : isInf (fneg v) = isInf v := by
  rw [Bool.eq_iff_iff, isInf_iff, isInf_iff, magBits_fneg]

@[simp] theorem isFinite_fneg (v : Word) : isFinite (fneg v) = isFinite v := by
  rw [Bool.eq_iff_iff, isFinite_iff, isFinite_iff, magBits_fneg]

@[simp] theorem magnitude_fneg (v : Word) : magnitude (fneg v) = magnitude v := by
  simp [magnitude, expField_eq, fracField_eq]

@[simp] theorem scaled_fneg (v : Word) : scaled (fneg v) = -scaled v := by
  cases h : signBit v <;> simp [scaled, h]

/-! ## Magnitudes -/

/-- The magnitude of a value whose exponent place is `e` and whose significand is `q`: the subnormal and normal cases of
`magnitude` in one formula. -/
theorem magnitude_of_magBits {v : Word} {e q : Nat} (hb : magBits v = e * 2 ^ 23 + q) (hq : q ≤ 2 ^ 24)
    (hn : e = 0 ∨ 2 ^ 23 ≤ q) : magnitude v = q * 2 ^ e := by
  unfold magnitude
  rw [expField_eq, fracField_eq, hb]
  by_cases h1 : q < 2 ^ 23
  · have he : e = 0 := by omega
    subst he
    have h2 : (0 * 2 ^ 23 + q) / 2 ^ 23 = 0 := by omega
    have h3 : (0 * 2 ^ 23 + q) % 2 ^ 23 = q := by omega
    rw [h2, h3]
    simp
  · by_cases h4 : q = 2 ^ 24
    · subst h4
      have h2 : (e * 2 ^ 23 + 2 ^ 24) / 2 ^ 23 = e + 2 := by omega
      have h3 : (e * 2 ^ 23 + 2 ^ 24) % 2 ^ 23 = 0 := by omega
      rw [h2, h3, if_neg (by omega)]
      show (2 ^ 23 + 0) * 2 ^ (e + 1) = 2 ^ 24 * 2 ^ e
      ring
    · have h2 : (e * 2 ^ 23 + q) / 2 ^ 23 = e + 1 := by omega
      have h3 : (e * 2 ^ 23 + q) % 2 ^ 23 = q - 2 ^ 23 := by omega
      rw [h2, h3, if_neg (by omega), Nat.add_sub_cancel, Nat.add_sub_cancel' (by omega)]

/-- The exponent place and significand of a pattern. -/
theorem magBits_split (v : Word) :
    ∃ e q, magBits v = e * 2 ^ 23 + q ∧ q < 2 ^ 24 ∧ (e = 0 ∨ 2 ^ 23 ≤ q) := by
  by_cases h : magBits v < 2 ^ 23
  · exact ⟨0, magBits v, by omega, by omega, .inl rfl⟩
  · refine ⟨magBits v / 2 ^ 23 - 1, magBits v % 2 ^ 23 + 2 ^ 23, ?_, by omega, .inr (by omega)⟩
    omega

theorem scaled_natAbs (v : Word) : (scaled v).natAbs = magnitude v := by
  unfold scaled; split <;> simp

theorem magnitude_zero_iff (v : Word) : magnitude v = 0 ↔ magBits v = 0 := by
  obtain ⟨e, q, hb, hq, hn⟩ := magBits_split v
  rw [magnitude_of_magBits hb (by omega) hn, hb]
  constructor
  · intro h
    have : q = 0 := by
      rcases Nat.mul_eq_zero.mp h with h | h
      · exact h
      · exact absurd h (by positivity)
    omega
  · intro h
    have : q = 0 := by omega
    simp [this]

/-! ## Rounding -/

/-- Rounding to a whole number is within half a unit, and at exactly half a unit the result is even. -/
theorem roundHalfEven_spec {num unit : Nat} (hu : 0 < unit) :
    let q := roundHalfEven num unit
    2 * num ≤ (2 * q + 1) * unit ∧ 2 * q * unit ≤ 2 * num + unit ∧
    (2 * num = (2 * q + 1) * unit → q % 2 = 0) ∧ (2 * q * unit = 2 * num + unit → q % 2 = 0) := by
  have hd := Nat.div_add_mod num unit
  have hm := Nat.mod_lt num hu
  set d := num / unit with hdd
  set r := num % unit with hr
  have hnum : num = unit * d + r := hd.symm
  unfold roundHalfEven
  rw [← hdd, ← hr]
  split
  · rename_i h
    have hge : unit ≤ 2 * r := by omega
    simp only
    refine ⟨by nlinarith, by nlinarith, fun h' => ?_, fun h' => ?_⟩
    · exfalso; nlinarith
    · rcases h with h | h
      · exfalso; nlinarith
      · omega
  · rename_i h
    push Not at h
    simp only
    refine ⟨by nlinarith [h.1], by nlinarith, fun h' => ?_, fun h' => ?_⟩
    · have : 2 * r = unit := by nlinarith
      have := h.2 this
      omega
    · exfalso; nlinarith

/-- Rounding to a whole number is monotone in the quotient. -/
theorem roundHalfEven_mono {n₁ u₁ n₂ u₂ : Nat} (h₁ : 0 < u₁) (h₂ : 0 < u₂) (h : n₁ * u₂ ≤ n₂ * u₁) :
    roundHalfEven n₁ u₁ ≤ roundHalfEven n₂ u₂ := by
  obtain ⟨-, hb1, -, hd1⟩ := roundHalfEven_spec (num := n₁) h₁
  obtain ⟨ha2, -, hc2, -⟩ := roundHalfEven_spec (num := n₂) h₂
  set a := roundHalfEven n₁ u₁
  set b := roundHalfEven n₂ u₂
  by_contra hlt
  push Not at hlt
  have e1 : 2 * a * u₁ * u₂ ≤ (2 * n₁ + u₁) * u₂ := Nat.mul_le_mul_right _ hb1
  have e2 : 2 * n₂ * u₁ ≤ (2 * b + 1) * u₂ * u₁ := Nat.mul_le_mul_right _ ha2
  have e3 : (2 * b + 2) * (u₁ * u₂) ≤ 2 * a * (u₁ * u₂) := Nat.mul_le_mul_right _ (by omega)
  have p : 0 < u₁ * u₂ := Nat.mul_pos h₁ h₂
  have hab : 2 * a * (u₁ * u₂) = (2 * b + 2) * (u₁ * u₂) := by nlinarith
  have hab' : a = b + 1 := by
    have := Nat.eq_of_mul_eq_mul_right p hab
    omega
  have t1 : 2 * a * u₁ = 2 * n₁ + u₁ := by
    apply Nat.eq_of_mul_eq_mul_right h₂
    nlinarith
  have t2 : 2 * n₂ = (2 * b + 1) * u₂ := by
    apply Nat.eq_of_mul_eq_mul_right h₁
    nlinarith
  have := hd1 t1
  have := hc2 t2
  omega

/-- The significand before rounding has at most 24 bits, and exactly 24 above the subnormal range. -/
theorem roundExp_spec (num den : Nat) :
    num / den < 2 ^ (24 + roundExp num den) ∧
    (roundExp num den = 0 ∨ 2 ^ (23 + roundExp num den) ≤ num / den) := by
  unfold roundExp
  constructor
  · rcases Nat.eq_zero_or_pos (num / den) with h | h
    · rw [h]; positivity
    · calc num / den < 2 ^ (Nat.log2 (num / den) + 1) := Nat.lt_log2_self
        _ ≤ 2 ^ (24 + (Nat.log2 (num / den) - 23)) := Nat.pow_le_pow_right (by decide) (by omega)
  · by_cases h : Nat.log2 (num / den) ≤ 23
    · left; omega
    · right
      have hne : num / den ≠ 0 := by
        intro h0; rw [h0] at h; simp at h
      calc 2 ^ (23 + (Nat.log2 (num / den) - 23)) = 2 ^ Nat.log2 (num / den) := by congr 1; omega
        _ ≤ num / den := Nat.log2_self_le hne

/-- The significand after rounding. -/
theorem roundSignificand_bounds {num den : Nat} (hd : 0 < den) :
    let e := roundExp num den
    let q := roundHalfEven num (den * 2 ^ e)
    q ≤ 2 ^ 24 ∧ (e = 0 ∨ 2 ^ 23 ≤ q) := by
  obtain ⟨h1, h2⟩ := roundExp_spec num den
  set e := roundExp num den
  have hu : 0 < den * 2 ^ e := by positivity
  have hr : ∀ k, roundHalfEven (k * (den * 2 ^ e)) (den * 2 ^ e) = k := by
    intro k
    unfold roundHalfEven
    rw [Nat.mul_mod_left, Nat.mul_div_cancel _ hu]
    simp; omega
  constructor
  · have hn : num < 2 ^ 24 * (den * 2 ^ e) := by
      have := (Nat.div_lt_iff_lt_mul hd).mp h1
      calc num < 2 ^ (24 + e) * den := this
        _ = 2 ^ 24 * (den * 2 ^ e) := by rw [Nat.pow_add]; ring
    have := roundHalfEven_mono (n₁ := num) (n₂ := 2 ^ 24 * (den * 2 ^ e)) hu hu (Nat.mul_le_mul_right _ hn.le)
    rwa [hr] at this
  · rcases h2 with h2 | h2
    · exact .inl h2
    · right
      have hn : 2 ^ 23 * (den * 2 ^ e) ≤ num := by
        have := (Nat.le_div_iff_mul_le hd).mp h2
        calc 2 ^ 23 * (den * 2 ^ e) = 2 ^ (23 + e) * den := by rw [Nat.pow_add]; ring
          _ ≤ num := this
      have := roundHalfEven_mono (n₁ := 2 ^ 23 * (den * 2 ^ e)) (n₂ := num) hu hu (Nat.mul_le_mul_right _ hn)
      rwa [hr] at this

theorem roundMag_le_infBits (num den : Nat) : roundMag num den ≤ infBits := Nat.min_le_right _ _

theorem roundMag_lt (num den : Nat) : roundMag num den < 2 ^ 31 :=
  lt_of_le_of_lt (roundMag_le_infBits num den) (by decide)

/-- Rounding is monotone in the quotient. -/
theorem roundMag_mono {n₁ d₁ n₂ d₂ : Nat} (h₁ : 0 < d₁) (h₂ : 0 < d₂) (h : n₁ * d₂ ≤ n₂ * d₁) :
    roundMag n₁ d₁ ≤ roundMag n₂ d₂ := by
  have hdiv : n₁ / d₁ ≤ n₂ / d₂ := by
    rw [Nat.le_div_iff_mul_le h₂]
    have := Nat.div_mul_le_self n₁ d₁
    have h3 : n₁ / d₁ * d₁ * d₂ ≤ n₂ * d₁ := le_trans (Nat.mul_le_mul_right _ this) h
    have h4 : n₁ / d₁ * d₂ * d₁ ≤ n₂ * d₁ := by rwa [Nat.mul_right_comm]
    exact Nat.le_of_mul_le_mul_right h4 h₁
  have hexp : roundExp n₁ d₁ ≤ roundExp n₂ d₂ := by
    obtain ⟨-, ha⟩ := roundExp_spec n₁ d₁
    obtain ⟨hb, -⟩ := roundExp_spec n₂ d₂
    rcases ha with ha | ha
    · omega
    · have : 2 ^ (23 + roundExp n₁ d₁) < 2 ^ (24 + roundExp n₂ d₂) := by omega
      have := (Nat.pow_lt_pow_iff_right (by decide : 1 < 2)).mp this
      omega
  obtain ⟨hq1, -⟩ := roundSignificand_bounds (num := n₁) h₁
  obtain ⟨-, hq2⟩ := roundSignificand_bounds (num := n₂) h₂
  unfold roundMag
  apply Nat.le_min.mpr
  refine ⟨?_, Nat.min_le_right _ _⟩
  apply le_trans (Nat.min_le_left _ _)
  rcases Nat.lt_or_eq_of_le hexp with hlt | heq
  · have : (roundExp n₁ d₁ + 1) * 2 ^ 23 ≤ roundExp n₂ d₂ * 2 ^ 23 := Nat.mul_le_mul_right _ hlt
    rcases hq2 with hq2 | hq2
    · omega
    · omega
  · rw [heq]
    apply Nat.add_le_add_left
    apply roundHalfEven_mono (by positivity) (by positivity)
    calc n₁ * (d₂ * 2 ^ roundExp n₂ d₂) = n₁ * d₂ * 2 ^ roundExp n₂ d₂ := by ring
      _ ≤ n₂ * d₁ * 2 ^ roundExp n₂ d₂ := Nat.mul_le_mul_right _ h
      _ = n₂ * (d₁ * 2 ^ roundExp n₂ d₂) := by ring

/-- Rounding the magnitude of a finite value gives its bits back. -/
theorem roundMag_magnitude {v : Word} {den : Nat} (hd : 0 < den) (hf : isFinite v = true) :
    roundMag (magnitude v * den) den = magBits v := by
  obtain ⟨e, q, hb, hq, hn⟩ := magBits_split v
  have hm := magnitude_of_magBits hb (by omega) hn
  have hdiv : magnitude v * den / den = q * 2 ^ e := by rw [Nat.mul_div_cancel _ hd, hm]
  have he : roundExp (magnitude v * den) den = e := by
    obtain ⟨h1, h2⟩ := roundExp_spec (magnitude v * den) den
    set e' := roundExp (magnitude v * den) den
    rw [hdiv] at h1 h2
    have hle : e ≤ e' := by
      rcases hn with hn | hn
      · omega
      · have : 2 ^ (23 + e) < 2 ^ (24 + e') := by
          calc 2 ^ (23 + e) = 2 ^ 23 * 2 ^ e := Nat.pow_add _ _ _
            _ ≤ q * 2 ^ e := Nat.mul_le_mul_right _ hn
            _ < 2 ^ (24 + e') := h1
        have := (Nat.pow_lt_pow_iff_right (by decide : 1 < 2)).mp this
        omega
    have hge : e' ≤ e := by
      rcases h2 with h2 | h2
      · omega
      · have : 2 ^ (23 + e') < 2 ^ (24 + e) := by
          calc 2 ^ (23 + e') ≤ q * 2 ^ e := h2
            _ < 2 ^ 24 * 2 ^ e := Nat.mul_lt_mul_of_pos_right hq (by positivity)
            _ = 2 ^ (24 + e) := (Nat.pow_add _ _ _).symm
        have := (Nat.pow_lt_pow_iff_right (by decide : 1 < 2)).mp this
        omega
    omega
  have hu : 0 < den * 2 ^ e := by positivity
  have hr : roundHalfEven (magnitude v * den) (den * 2 ^ e) = q := by
    have : magnitude v * den = q * (den * 2 ^ e) := by rw [hm]; ring
    rw [this]
    unfold roundHalfEven
    rw [Nat.mul_mod_left, Nat.mul_div_cancel _ hu]
    simp; omega
  unfold roundMag
  rw [he, hr, ← hb]
  exact Nat.min_eq_left ((isFinite_iff v).mp hf).le

/-! ## Rounded patterns -/

@[simp] theorem signBit_roundTo (neg : Bool) (num den : Nat) : signBit (roundTo neg num den) = neg :=
  signBit_packBits (roundMag_lt num den)

@[simp] theorem magBits_roundTo (neg : Bool) (num den : Nat) : magBits (roundTo neg num den) = roundMag num den :=
  magBits_packBits (roundMag_lt num den)

@[simp] theorem isNaN_roundTo (neg : Bool) (num den : Nat) : isNaN (roundTo neg num den) = false := by
  have := roundMag_le_infBits num den
  rw [← Bool.not_eq_true, isNaN_iff, magBits_roundTo]; omega

/-- A value times one in a wider unit rounds to itself, with the given sign. -/
theorem roundTo_magnitude {v : Word} {neg : Bool} {den : Nat} (hd : 0 < den) (hf : isFinite v = true) :
    roundTo neg (magnitude v * den) den = packBits neg (magBits v) := by
  rw [roundTo, roundMag_magnitude hd hf]

end Sys2Proof.Machine
end

