-- ==== Sys2Proof/Laws/State.lean ====
section
/-! SUPPORT. One lemma per field per named update of State, so that no proof unfolds a record update. -/

namespace Sys2Proof.Machine

@[simp] theorem reject_s1 (c : Cause) (v : Word) (s : State) :
    (reject c v s).s1 = s.s1 := rfl
@[simp] theorem reject_s2 (c : Cause) (v : Word) (s : State) :
    (reject c v s).s2 = s.s2 := rfl
@[simp] theorem reject_s3 (c : Cause) (v : Word) (s : State) :
    (reject c v s).s3 = s.s3 := rfl
@[simp] theorem reject_s4 (c : Cause) (v : Word) (s : State) :
    (reject c v s).s4 = s.s4 := rfl
@[simp] theorem reject_fbr (c : Cause) (v : Word) (s : State) :
    (reject c v s).fbr = s.fbr := rfl
@[simp] theorem reject_b0 (c : Cause) (v : Word) (s : State) :
    (reject c v s).b0 = s.b0 := rfl
@[simp] theorem reject_b1 (c : Cause) (v : Word) (s : State) :
    (reject c v s).b1 = s.b1 := rfl
@[simp] theorem reject_a1 (c : Cause) (v : Word) (s : State) :
    (reject c v s).a1 = s.a1 := rfl
@[simp] theorem reject_rg (c : Cause) (v : Word) (s : State) :
    (reject c v s).rg = s.rg := rfl
@[simp] theorem reject_wt (c : Cause) (v : Word) (s : State) :
    (reject c v s).wt = s.wt := rfl
@[simp] theorem reject_afs (c : Cause) (v : Word) (s : State) :
    (reject c v s).afs = s.afs := rfl
@[simp] theorem reject_acut (c : Cause) (v : Word) (s : State) :
    (reject c v s).acut = s.acut := rfl
@[simp] theorem reject_ares (c : Cause) (v : Word) (s : State) :
    (reject c v s).ares = s.ares := rfl
@[simp] theorem reject_out (c : Cause) (v : Word) (s : State) :
    (reject c v s).out = s.out := rfl
@[simp] theorem reject_pFs (c : Cause) (v : Word) (s : State) :
    (reject c v s).pFs = s.pFs := rfl
@[simp] theorem reject_pCut (c : Cause) (v : Word) (s : State) :
    (reject c v s).pCut = s.pCut := rfl
@[simp] theorem reject_pRes (c : Cause) (v : Word) (s : State) :
    (reject c v s).pRes = s.pRes := rfl
@[simp] theorem reject_pWt (c : Cause) (v : Word) (s : State) :
    (reject c v s).pWt = s.pWt := rfl
@[simp] theorem reject_pIn (c : Cause) (v : Word) (s : State) :
    (reject c v s).pIn = s.pIn := rfl
@[simp] theorem reject_status (c : Cause) (v : Word) (s : State) :
    (reject c v s).status = setSticky c s.status := rfl
@[simp] theorem reject_ecmd (c : Cause) (v : Word) (s : State) :
    (reject c v s).ecmd = v := rfl
@[simp] theorem reject_pending (c : Cause) (v : Word) (s : State) :
    (reject c v s).pending = s.pending := rfl
@[simp] theorem reject_resp (c : Cause) (v : Word) (s : State) :
    (reject c v s).resp = s.resp := rfl

@[simp] theorem writeStatus_s1 (v : Word) (s : State) :
    (writeStatus v s).s1 = s.s1 := rfl
@[simp] theorem writeStatus_s2 (v : Word) (s : State) :
    (writeStatus v s).s2 = s.s2 := rfl
@[simp] theorem writeStatus_s3 (v : Word) (s : State) :
    (writeStatus v s).s3 = s.s3 := rfl
@[simp] theorem writeStatus_s4 (v : Word) (s : State) :
    (writeStatus v s).s4 = s.s4 := rfl
@[simp] theorem writeStatus_fbr (v : Word) (s : State) :
    (writeStatus v s).fbr = s.fbr := rfl
@[simp] theorem writeStatus_b0 (v : Word) (s : State) :
    (writeStatus v s).b0 = s.b0 := rfl
@[simp] theorem writeStatus_b1 (v : Word) (s : State) :
    (writeStatus v s).b1 = s.b1 := rfl
@[simp] theorem writeStatus_a1 (v : Word) (s : State) :
    (writeStatus v s).a1 = s.a1 := rfl
@[simp] theorem writeStatus_rg (v : Word) (s : State) :
    (writeStatus v s).rg = s.rg := rfl
@[simp] theorem writeStatus_wt (v : Word) (s : State) :
    (writeStatus v s).wt = s.wt := rfl
@[simp] theorem writeStatus_afs (v : Word) (s : State) :
    (writeStatus v s).afs = s.afs := rfl
@[simp] theorem writeStatus_acut (v : Word) (s : State) :
    (writeStatus v s).acut = s.acut := rfl
@[simp] theorem writeStatus_ares (v : Word) (s : State) :
    (writeStatus v s).ares = s.ares := rfl
@[simp] theorem writeStatus_out (v : Word) (s : State) :
    (writeStatus v s).out = s.out := rfl
@[simp] theorem writeStatus_pFs (v : Word) (s : State) :
    (writeStatus v s).pFs = s.pFs := rfl
@[simp] theorem writeStatus_pCut (v : Word) (s : State) :
    (writeStatus v s).pCut = s.pCut := rfl
@[simp] theorem writeStatus_pRes (v : Word) (s : State) :
    (writeStatus v s).pRes = s.pRes := rfl
@[simp] theorem writeStatus_pWt (v : Word) (s : State) :
    (writeStatus v s).pWt = s.pWt := rfl
@[simp] theorem writeStatus_pIn (v : Word) (s : State) :
    (writeStatus v s).pIn = s.pIn := rfl
@[simp] theorem writeStatus_status (v : Word) (s : State) :
    (writeStatus v s).status = clearSticky v s.status := rfl
@[simp] theorem writeStatus_ecmd (v : Word) (s : State) :
    (writeStatus v s).ecmd = s.ecmd := rfl
@[simp] theorem writeStatus_pending (v : Word) (s : State) :
    (writeStatus v s).pending = s.pending := rfl
@[simp] theorem writeStatus_resp (v : Word) (s : State) :
    (writeStatus v s).resp = s.resp := rfl

@[simp] theorem zeroFilterMemory_s1 (s : State) :
    (zeroFilterMemory s).s1 = ⟨posZero, posZero⟩ := rfl
@[simp] theorem zeroFilterMemory_s2 (s : State) :
    (zeroFilterMemory s).s2 = ⟨posZero, posZero⟩ := rfl
@[simp] theorem zeroFilterMemory_s3 (s : State) :
    (zeroFilterMemory s).s3 = ⟨posZero, posZero⟩ := rfl
@[simp] theorem zeroFilterMemory_s4 (s : State) :
    (zeroFilterMemory s).s4 = ⟨posZero, posZero⟩ := rfl
@[simp] theorem zeroFilterMemory_fbr (s : State) :
    (zeroFilterMemory s).fbr = posZero := rfl
@[simp] theorem zeroFilterMemory_b0 (s : State) :
    (zeroFilterMemory s).b0 = s.b0 := rfl
@[simp] theorem zeroFilterMemory_b1 (s : State) :
    (zeroFilterMemory s).b1 = s.b1 := rfl
@[simp] theorem zeroFilterMemory_a1 (s : State) :
    (zeroFilterMemory s).a1 = s.a1 := rfl
@[simp] theorem zeroFilterMemory_rg (s : State) :
    (zeroFilterMemory s).rg = s.rg := rfl
@[simp] theorem zeroFilterMemory_wt (s : State) :
    (zeroFilterMemory s).wt = s.wt := rfl
@[simp] theorem zeroFilterMemory_afs (s : State) :
    (zeroFilterMemory s).afs = s.afs := rfl
@[simp] theorem zeroFilterMemory_acut (s : State) :
    (zeroFilterMemory s).acut = s.acut := rfl
@[simp] theorem zeroFilterMemory_ares (s : State) :
    (zeroFilterMemory s).ares = s.ares := rfl
@[simp] theorem zeroFilterMemory_out (s : State) :
    (zeroFilterMemory s).out = posZero := rfl
@[simp] theorem zeroFilterMemory_pFs (s : State) :
    (zeroFilterMemory s).pFs = s.pFs := rfl
@[simp] theorem zeroFilterMemory_pCut (s : State) :
    (zeroFilterMemory s).pCut = s.pCut := rfl
@[simp] theorem zeroFilterMemory_pRes (s : State) :
    (zeroFilterMemory s).pRes = s.pRes := rfl
@[simp] theorem zeroFilterMemory_pWt (s : State) :
    (zeroFilterMemory s).pWt = s.pWt := rfl
@[simp] theorem zeroFilterMemory_pIn (s : State) :
    (zeroFilterMemory s).pIn = s.pIn := rfl
@[simp] theorem zeroFilterMemory_status (s : State) :
    (zeroFilterMemory s).status = s.status := rfl
@[simp] theorem zeroFilterMemory_ecmd (s : State) :
    (zeroFilterMemory s).ecmd = s.ecmd := rfl
@[simp] theorem zeroFilterMemory_pending (s : State) :
    (zeroFilterMemory s).pending = s.pending := rfl
@[simp] theorem zeroFilterMemory_resp (s : State) :
    (zeroFilterMemory s).resp = s.resp := rfl

@[simp] theorem zeroActiveSet_s1 (s : State) :
    (zeroActiveSet s).s1 = s.s1 := rfl
@[simp] theorem zeroActiveSet_s2 (s : State) :
    (zeroActiveSet s).s2 = s.s2 := rfl
@[simp] theorem zeroActiveSet_s3 (s : State) :
    (zeroActiveSet s).s3 = s.s3 := rfl
@[simp] theorem zeroActiveSet_s4 (s : State) :
    (zeroActiveSet s).s4 = s.s4 := rfl
@[simp] theorem zeroActiveSet_fbr (s : State) :
    (zeroActiveSet s).fbr = s.fbr := rfl
@[simp] theorem zeroActiveSet_b0 (s : State) :
    (zeroActiveSet s).b0 = posZero := rfl
@[simp] theorem zeroActiveSet_b1 (s : State) :
    (zeroActiveSet s).b1 = posZero := rfl
@[simp] theorem zeroActiveSet_a1 (s : State) :
    (zeroActiveSet s).a1 = posZero := rfl
@[simp] theorem zeroActiveSet_rg (s : State) :
    (zeroActiveSet s).rg = posZero := rfl
@[simp] theorem zeroActiveSet_wt (s : State) :
    (zeroActiveSet s).wt = ⟨posZero, posZero, posZero, posZero, posZero⟩ := rfl
@[simp] theorem zeroActiveSet_afs (s : State) :
    (zeroActiveSet s).afs = s.afs := rfl
@[simp] theorem zeroActiveSet_acut (s : State) :
    (zeroActiveSet s).acut = posZero := rfl
@[simp] theorem zeroActiveSet_ares (s : State) :
    (zeroActiveSet s).ares = posZero := rfl
@[simp] theorem zeroActiveSet_out (s : State) :
    (zeroActiveSet s).out = s.out := rfl
@[simp] theorem zeroActiveSet_pFs (s : State) :
    (zeroActiveSet s).pFs = s.pFs := rfl
@[simp] theorem zeroActiveSet_pCut (s : State) :
    (zeroActiveSet s).pCut = s.pCut := rfl
@[simp] theorem zeroActiveSet_pRes (s : State) :
    (zeroActiveSet s).pRes = s.pRes := rfl
@[simp] theorem zeroActiveSet_pWt (s : State) :
    (zeroActiveSet s).pWt = s.pWt := rfl
@[simp] theorem zeroActiveSet_pIn (s : State) :
    (zeroActiveSet s).pIn = s.pIn := rfl
@[simp] theorem zeroActiveSet_status (s : State) :
    (zeroActiveSet s).status = { s.status with cutcl := false, rescl := false } := rfl
@[simp] theorem zeroActiveSet_ecmd (s : State) :
    (zeroActiveSet s).ecmd = s.ecmd := rfl
@[simp] theorem zeroActiveSet_pending (s : State) :
    (zeroActiveSet s).pending = s.pending := rfl
@[simp] theorem zeroActiveSet_resp (s : State) :
    (zeroActiveSet s).resp = s.resp := rfl

@[simp] theorem hardReset_s1 (s : State) :
    (hardReset s).s1 = State.reset.s1 := rfl
@[simp] theorem hardReset_s2 (s : State) :
    (hardReset s).s2 = State.reset.s2 := rfl
@[simp] theorem hardReset_s3 (s : State) :
    (hardReset s).s3 = State.reset.s3 := rfl
@[simp] theorem hardReset_s4 (s : State) :
    (hardReset s).s4 = State.reset.s4 := rfl
@[simp] theorem hardReset_fbr (s : State) :
    (hardReset s).fbr = State.reset.fbr := rfl
@[simp] theorem hardReset_b0 (s : State) :
    (hardReset s).b0 = State.reset.b0 := rfl
@[simp] theorem hardReset_b1 (s : State) :
    (hardReset s).b1 = State.reset.b1 := rfl
@[simp] theorem hardReset_a1 (s : State) :
    (hardReset s).a1 = State.reset.a1 := rfl
@[simp] theorem hardReset_rg (s : State) :
    (hardReset s).rg = State.reset.rg := rfl
@[simp] theorem hardReset_wt (s : State) :
    (hardReset s).wt = State.reset.wt := rfl
@[simp] theorem hardReset_afs (s : State) :
    (hardReset s).afs = State.reset.afs := rfl
@[simp] theorem hardReset_acut (s : State) :
    (hardReset s).acut = State.reset.acut := rfl
@[simp] theorem hardReset_ares (s : State) :
    (hardReset s).ares = State.reset.ares := rfl
@[simp] theorem hardReset_out (s : State) :
    (hardReset s).out = State.reset.out := rfl
@[simp] theorem hardReset_pFs (s : State) :
    (hardReset s).pFs = State.reset.pFs := rfl
@[simp] theorem hardReset_pCut (s : State) :
    (hardReset s).pCut = State.reset.pCut := rfl
@[simp] theorem hardReset_pRes (s : State) :
    (hardReset s).pRes = State.reset.pRes := rfl
@[simp] theorem hardReset_pWt (s : State) :
    (hardReset s).pWt = State.reset.pWt := rfl
@[simp] theorem hardReset_pIn (s : State) :
    (hardReset s).pIn = State.reset.pIn := rfl
@[simp] theorem hardReset_status (s : State) :
    (hardReset s).status = State.reset.status := rfl
@[simp] theorem hardReset_ecmd (s : State) :
    (hardReset s).ecmd = State.reset.ecmd := rfl
@[simp] theorem hardReset_pending (s : State) :
    (hardReset s).pending = s.pending := rfl
@[simp] theorem hardReset_resp (s : State) :
    (hardReset s).resp = State.reset.resp := rfl

@[simp] theorem respond_s1 (r : Response) (s : State) :
    (respond r s).s1 = s.s1 := rfl
@[simp] theorem respond_s2 (r : Response) (s : State) :
    (respond r s).s2 = s.s2 := rfl
@[simp] theorem respond_s3 (r : Response) (s : State) :
    (respond r s).s3 = s.s3 := rfl
@[simp] theorem respond_s4 (r : Response) (s : State) :
    (respond r s).s4 = s.s4 := rfl
@[simp] theorem respond_fbr (r : Response) (s : State) :
    (respond r s).fbr = s.fbr := rfl
@[simp] theorem respond_b0 (r : Response) (s : State) :
    (respond r s).b0 = s.b0 := rfl
@[simp] theorem respond_b1 (r : Response) (s : State) :
    (respond r s).b1 = s.b1 := rfl
@[simp] theorem respond_a1 (r : Response) (s : State) :
    (respond r s).a1 = s.a1 := rfl
@[simp] theorem respond_rg (r : Response) (s : State) :
    (respond r s).rg = s.rg := rfl
@[simp] theorem respond_wt (r : Response) (s : State) :
    (respond r s).wt = s.wt := rfl
@[simp] theorem respond_afs (r : Response) (s : State) :
    (respond r s).afs = s.afs := rfl
@[simp] theorem respond_acut (r : Response) (s : State) :
    (respond r s).acut = s.acut := rfl
@[simp] theorem respond_ares (r : Response) (s : State) :
    (respond r s).ares = s.ares := rfl
@[simp] theorem respond_out (r : Response) (s : State) :
    (respond r s).out = s.out := rfl
@[simp] theorem respond_pFs (r : Response) (s : State) :
    (respond r s).pFs = s.pFs := rfl
@[simp] theorem respond_pCut (r : Response) (s : State) :
    (respond r s).pCut = s.pCut := rfl
@[simp] theorem respond_pRes (r : Response) (s : State) :
    (respond r s).pRes = s.pRes := rfl
@[simp] theorem respond_pWt (r : Response) (s : State) :
    (respond r s).pWt = s.pWt := rfl
@[simp] theorem respond_pIn (r : Response) (s : State) :
    (respond r s).pIn = s.pIn := rfl
@[simp] theorem respond_status (r : Response) (s : State) :
    (respond r s).status = s.status := rfl
@[simp] theorem respond_ecmd (r : Response) (s : State) :
    (respond r s).ecmd = s.ecmd := rfl
@[simp] theorem respond_pending (r : Response) (s : State) :
    (respond r s).pending = s.pending := rfl
@[simp] theorem respond_resp (r : Response) (s : State) :
    (respond r s).resp = some r := rfl

@[simp] theorem startStream_s1 (s : State) :
    (startStream s).s1 = ⟨posZero, posZero⟩ := rfl
@[simp] theorem startStream_s2 (s : State) :
    (startStream s).s2 = ⟨posZero, posZero⟩ := rfl
@[simp] theorem startStream_s3 (s : State) :
    (startStream s).s3 = ⟨posZero, posZero⟩ := rfl
@[simp] theorem startStream_s4 (s : State) :
    (startStream s).s4 = ⟨posZero, posZero⟩ := rfl
@[simp] theorem startStream_fbr (s : State) :
    (startStream s).fbr = posZero := rfl
@[simp] theorem startStream_b0 (s : State) :
    (startStream s).b0 = posZero := rfl
@[simp] theorem startStream_b1 (s : State) :
    (startStream s).b1 = posZero := rfl
@[simp] theorem startStream_a1 (s : State) :
    (startStream s).a1 = posZero := rfl
@[simp] theorem startStream_rg (s : State) :
    (startStream s).rg = posZero := rfl
@[simp] theorem startStream_wt (s : State) :
    (startStream s).wt = ⟨posZero, posZero, posZero, posZero, posZero⟩ := rfl
@[simp] theorem startStream_afs (s : State) :
    (startStream s).afs = s.pFs := rfl
@[simp] theorem startStream_acut (s : State) :
    (startStream s).acut = posZero := rfl
@[simp] theorem startStream_ares (s : State) :
    (startStream s).ares = posZero := rfl
@[simp] theorem startStream_out (s : State) :
    (startStream s).out = posZero := rfl
@[simp] theorem startStream_pFs (s : State) :
    (startStream s).pFs = s.pFs := rfl
@[simp] theorem startStream_pCut (s : State) :
    (startStream s).pCut = s.pCut := rfl
@[simp] theorem startStream_pRes (s : State) :
    (startStream s).pRes = s.pRes := rfl
@[simp] theorem startStream_pWt (s : State) :
    (startStream s).pWt = s.pWt := rfl
@[simp] theorem startStream_pIn (s : State) :
    (startStream s).pIn = s.pIn := rfl
@[simp] theorem startStream_status (s : State) :
    (startStream s).status = { s.status with cutcl := false, rescl := false, inited := true, cvalid := false } := rfl
@[simp] theorem startStream_ecmd (s : State) :
    (startStream s).ecmd = s.ecmd := rfl
@[simp] theorem startStream_pending (s : State) :
    (startStream s).pending = s.pending := rfl
@[simp] theorem startStream_resp (s : State) :
    (startStream s).resp = s.resp := rfl

@[simp] theorem refuseRate_s1 (s : State) :
    (refuseRate s).s1 = s.s1 := rfl
@[simp] theorem refuseRate_s2 (s : State) :
    (refuseRate s).s2 = s.s2 := rfl
@[simp] theorem refuseRate_s3 (s : State) :
    (refuseRate s).s3 = s.s3 := rfl
@[simp] theorem refuseRate_s4 (s : State) :
    (refuseRate s).s4 = s.s4 := rfl
@[simp] theorem refuseRate_fbr (s : State) :
    (refuseRate s).fbr = s.fbr := rfl
@[simp] theorem refuseRate_b0 (s : State) :
    (refuseRate s).b0 = s.b0 := rfl
@[simp] theorem refuseRate_b1 (s : State) :
    (refuseRate s).b1 = s.b1 := rfl
@[simp] theorem refuseRate_a1 (s : State) :
    (refuseRate s).a1 = s.a1 := rfl
@[simp] theorem refuseRate_rg (s : State) :
    (refuseRate s).rg = s.rg := rfl
@[simp] theorem refuseRate_wt (s : State) :
    (refuseRate s).wt = s.wt := rfl
@[simp] theorem refuseRate_afs (s : State) :
    (refuseRate s).afs = s.afs := rfl
@[simp] theorem refuseRate_acut (s : State) :
    (refuseRate s).acut = s.acut := rfl
@[simp] theorem refuseRate_ares (s : State) :
    (refuseRate s).ares = s.ares := rfl
@[simp] theorem refuseRate_out (s : State) :
    (refuseRate s).out = s.out := rfl
@[simp] theorem refuseRate_pFs (s : State) :
    (refuseRate s).pFs = s.pFs := rfl
@[simp] theorem refuseRate_pCut (s : State) :
    (refuseRate s).pCut = s.pCut := rfl
@[simp] theorem refuseRate_pRes (s : State) :
    (refuseRate s).pRes = s.pRes := rfl
@[simp] theorem refuseRate_pWt (s : State) :
    (refuseRate s).pWt = s.pWt := rfl
@[simp] theorem refuseRate_pIn (s : State) :
    (refuseRate s).pIn = s.pIn := rfl
@[simp] theorem refuseRate_status (s : State) :
    (refuseRate s).status = setSticky .eCfg { s.status with inited := false, cvalid := false } := rfl
@[simp] theorem refuseRate_ecmd (s : State) :
    (refuseRate s).ecmd = encode .init := rfl
@[simp] theorem refuseRate_pending (s : State) :
    (refuseRate s).pending = s.pending := rfl
@[simp] theorem refuseRate_resp (s : State) :
    (refuseRate s).resp = s.resp := rfl

@[simp] theorem publish_s1 (r : CpeResult) (s : State) :
    (publish r s).s1 = s.s1 := rfl
@[simp] theorem publish_s2 (r : CpeResult) (s : State) :
    (publish r s).s2 = s.s2 := rfl
@[simp] theorem publish_s3 (r : CpeResult) (s : State) :
    (publish r s).s3 = s.s3 := rfl
@[simp] theorem publish_s4 (r : CpeResult) (s : State) :
    (publish r s).s4 = s.s4 := rfl
@[simp] theorem publish_fbr (r : CpeResult) (s : State) :
    (publish r s).fbr = s.fbr := rfl
@[simp] theorem publish_b0 (r : CpeResult) (s : State) :
    (publish r s).b0 = r.b0 := rfl
@[simp] theorem publish_b1 (r : CpeResult) (s : State) :
    (publish r s).b1 = r.b1 := rfl
@[simp] theorem publish_a1 (r : CpeResult) (s : State) :
    (publish r s).a1 = r.a1 := rfl
@[simp] theorem publish_rg (r : CpeResult) (s : State) :
    (publish r s).rg = r.rg := rfl
@[simp] theorem publish_wt (r : CpeResult) (s : State) :
    (publish r s).wt = s.pWt := rfl
@[simp] theorem publish_afs (r : CpeResult) (s : State) :
    (publish r s).afs = s.afs := rfl
@[simp] theorem publish_acut (r : CpeResult) (s : State) :
    (publish r s).acut = r.acut := rfl
@[simp] theorem publish_ares (r : CpeResult) (s : State) :
    (publish r s).ares = r.ares := rfl
@[simp] theorem publish_out (r : CpeResult) (s : State) :
    (publish r s).out = s.out := rfl
@[simp] theorem publish_pFs (r : CpeResult) (s : State) :
    (publish r s).pFs = s.pFs := rfl
@[simp] theorem publish_pCut (r : CpeResult) (s : State) :
    (publish r s).pCut = s.pCut := rfl
@[simp] theorem publish_pRes (r : CpeResult) (s : State) :
    (publish r s).pRes = s.pRes := rfl
@[simp] theorem publish_pWt (r : CpeResult) (s : State) :
    (publish r s).pWt = s.pWt := rfl
@[simp] theorem publish_pIn (r : CpeResult) (s : State) :
    (publish r s).pIn = s.pIn := rfl
@[simp] theorem publish_status (r : CpeResult) (s : State) :
    (publish r s).status = { s.status with cutcl := r.cutcl, rescl := r.rescl, cvalid := true } := rfl
@[simp] theorem publish_ecmd (r : CpeResult) (s : State) :
    (publish r s).ecmd = s.ecmd := rfl
@[simp] theorem publish_pending (r : CpeResult) (s : State) :
    (publish r s).pending = s.pending := rfl
@[simp] theorem publish_resp (r : CpeResult) (s : State) :
    (publish r s).resp = s.resp := rfl

@[simp] theorem commitTaps_s1 (t : Taps) (y : Word) (s : State) :
    (commitTaps t y s).s1 = ⟨t.nl, t.out1⟩ := rfl
@[simp] theorem commitTaps_s2 (t : Taps) (y : Word) (s : State) :
    (commitTaps t y s).s2 = ⟨t.out1, t.out2⟩ := rfl
@[simp] theorem commitTaps_s3 (t : Taps) (y : Word) (s : State) :
    (commitTaps t y s).s3 = ⟨t.out2, t.out3⟩ := rfl
@[simp] theorem commitTaps_s4 (t : Taps) (y : Word) (s : State) :
    (commitTaps t y s).s4 = ⟨t.out3, t.out4⟩ := rfl
@[simp] theorem commitTaps_fbr (t : Taps) (y : Word) (s : State) :
    (commitTaps t y s).fbr = t.out4 := rfl
@[simp] theorem commitTaps_b0 (t : Taps) (y : Word) (s : State) :
    (commitTaps t y s).b0 = s.b0 := rfl
@[simp] theorem commitTaps_b1 (t : Taps) (y : Word) (s : State) :
    (commitTaps t y s).b1 = s.b1 := rfl
@[simp] theorem commitTaps_a1 (t : Taps) (y : Word) (s : State) :
    (commitTaps t y s).a1 = s.a1 := rfl
@[simp] theorem commitTaps_rg (t : Taps) (y : Word) (s : State) :
    (commitTaps t y s).rg = s.rg := rfl
@[simp] theorem commitTaps_wt (t : Taps) (y : Word) (s : State) :
    (commitTaps t y s).wt = s.wt := rfl
@[simp] theorem commitTaps_afs (t : Taps) (y : Word) (s : State) :
    (commitTaps t y s).afs = s.afs := rfl
@[simp] theorem commitTaps_acut (t : Taps) (y : Word) (s : State) :
    (commitTaps t y s).acut = s.acut := rfl
@[simp] theorem commitTaps_ares (t : Taps) (y : Word) (s : State) :
    (commitTaps t y s).ares = s.ares := rfl
@[simp] theorem commitTaps_out (t : Taps) (y : Word) (s : State) :
    (commitTaps t y s).out = y := rfl
@[simp] theorem commitTaps_pFs (t : Taps) (y : Word) (s : State) :
    (commitTaps t y s).pFs = s.pFs := rfl
@[simp] theorem commitTaps_pCut (t : Taps) (y : Word) (s : State) :
    (commitTaps t y s).pCut = s.pCut := rfl
@[simp] theorem commitTaps_pRes (t : Taps) (y : Word) (s : State) :
    (commitTaps t y s).pRes = s.pRes := rfl
@[simp] theorem commitTaps_pWt (t : Taps) (y : Word) (s : State) :
    (commitTaps t y s).pWt = s.pWt := rfl
@[simp] theorem commitTaps_pIn (t : Taps) (y : Word) (s : State) :
    (commitTaps t y s).pIn = s.pIn := rfl
@[simp] theorem commitTaps_status (t : Taps) (y : Word) (s : State) :
    (commitTaps t y s).status = noteOutput y s.status := rfl
@[simp] theorem commitTaps_ecmd (t : Taps) (y : Word) (s : State) :
    (commitTaps t y s).ecmd = s.ecmd := rfl
@[simp] theorem commitTaps_pending (t : Taps) (y : Word) (s : State) :
    (commitTaps t y s).pending = s.pending := rfl
@[simp] theorem commitTaps_resp (t : Taps) (y : Word) (s : State) :
    (commitTaps t y s).resp = s.resp := rfl

@[simp] theorem queueCommand_s1 (w : Word) (s : State) :
    (queueCommand w s).s1 = s.s1 := rfl
@[simp] theorem queueCommand_s2 (w : Word) (s : State) :
    (queueCommand w s).s2 = s.s2 := rfl
@[simp] theorem queueCommand_s3 (w : Word) (s : State) :
    (queueCommand w s).s3 = s.s3 := rfl
@[simp] theorem queueCommand_s4 (w : Word) (s : State) :
    (queueCommand w s).s4 = s.s4 := rfl
@[simp] theorem queueCommand_fbr (w : Word) (s : State) :
    (queueCommand w s).fbr = s.fbr := rfl
@[simp] theorem queueCommand_b0 (w : Word) (s : State) :
    (queueCommand w s).b0 = s.b0 := rfl
@[simp] theorem queueCommand_b1 (w : Word) (s : State) :
    (queueCommand w s).b1 = s.b1 := rfl
@[simp] theorem queueCommand_a1 (w : Word) (s : State) :
    (queueCommand w s).a1 = s.a1 := rfl
@[simp] theorem queueCommand_rg (w : Word) (s : State) :
    (queueCommand w s).rg = s.rg := rfl
@[simp] theorem queueCommand_wt (w : Word) (s : State) :
    (queueCommand w s).wt = s.wt := rfl
@[simp] theorem queueCommand_afs (w : Word) (s : State) :
    (queueCommand w s).afs = s.afs := rfl
@[simp] theorem queueCommand_acut (w : Word) (s : State) :
    (queueCommand w s).acut = s.acut := rfl
@[simp] theorem queueCommand_ares (w : Word) (s : State) :
    (queueCommand w s).ares = s.ares := rfl
@[simp] theorem queueCommand_out (w : Word) (s : State) :
    (queueCommand w s).out = s.out := rfl
@[simp] theorem queueCommand_pFs (w : Word) (s : State) :
    (queueCommand w s).pFs = s.pFs := rfl
@[simp] theorem queueCommand_pCut (w : Word) (s : State) :
    (queueCommand w s).pCut = s.pCut := rfl
@[simp] theorem queueCommand_pRes (w : Word) (s : State) :
    (queueCommand w s).pRes = s.pRes := rfl
@[simp] theorem queueCommand_pWt (w : Word) (s : State) :
    (queueCommand w s).pWt = s.pWt := rfl
@[simp] theorem queueCommand_pIn (w : Word) (s : State) :
    (queueCommand w s).pIn = s.pIn := rfl
@[simp] theorem queueCommand_status (w : Word) (s : State) :
    (queueCommand w s).status = s.status := rfl
@[simp] theorem queueCommand_ecmd (w : Word) (s : State) :
    (queueCommand w s).ecmd = s.ecmd := rfl
@[simp] theorem queueCommand_pending (w : Word) (s : State) :
    (queueCommand w s).pending = commandWrite w :: s.pending := rfl
@[simp] theorem queueCommand_resp (w : Word) (s : State) :
    (queueCommand w s).resp = s.resp := rfl

end Sys2Proof.Machine
end

