-- ==== Sys2Proof/Laws/Ops.lean ====
section
/-! SUPPORT. What each shared operation does, said once: proofs cite these lemmas in place of unfolding the operation. -/

namespace Sys2Proof.Machine

/-! ## The sticky bits -/

theorem stickyBit_setSticky (c k : Cause) (st : Status) :
    stickyBit (setSticky c st) k = (stickyBit st k || decide (c = k)) := by
  cases c <;> cases k <;> simp [stickyBit, setSticky]

@[simp] theorem setSticky_inited (c : Cause) (st : Status) : (setSticky c st).inited = st.inited := by
  cases c <;> rfl
@[simp] theorem setSticky_cvalid (c : Cause) (st : Status) : (setSticky c st).cvalid = st.cvalid := by
  cases c <;> rfl
@[simp] theorem setSticky_cutcl (c : Cause) (st : Status) : (setSticky c st).cutcl = st.cutcl := by
  cases c <;> rfl
@[simp] theorem setSticky_rescl (c : Cause) (st : Status) : (setSticky c st).rescl = st.rescl := by
  cases c <;> rfl

theorem stickyBit_clearSticky (v : Word) (k : Cause) (st : Status) :
    stickyBit (clearSticky v st) k = (stickyBit st k && !v.getLsbD (causeCode k)) := by
  cases k <;> rfl

@[simp] theorem clearSticky_inited (v : Word) (st : Status) : (clearSticky v st).inited = st.inited := rfl
@[simp] theorem clearSticky_cvalid (v : Word) (st : Status) : (clearSticky v st).cvalid = st.cvalid := rfl
@[simp] theorem clearSticky_cutcl (v : Word) (st : Status) : (clearSticky v st).cutcl = st.cutcl := rfl
@[simp] theorem clearSticky_rescl (v : Word) (st : Status) : (clearSticky v st).rescl = st.rescl := rfl

theorem noteOutput_finite {y : Word} (st : Status) (h : isFinite y = true) : noteOutput y st = st := by
  simp [noteOutput, h]

theorem noteOutput_nonfinite {y : Word} (st : Status) (h : isFinite y = false) :
    noteOutput y st = { st with nfOut := true } := by
  simp [noteOutput, h, setSticky]

theorem stickyBit_noteOutput (y : Word) (st : Status) (k : Cause) :
    stickyBit (noteOutput y st) k = (stickyBit st k || (!isFinite y && decide (k = .nfOut))) := by
  by_cases h : isFinite y = true
  · simp [noteOutput, h]
  · cases k <;> simp [noteOutput, h, setSticky, stickyBit]

@[simp] theorem noteOutput_inited (y : Word) (st : Status) : (noteOutput y st).inited = st.inited := by
  unfold noteOutput; split <;> simp
@[simp] theorem noteOutput_cvalid (y : Word) (st : Status) : (noteOutput y st).cvalid = st.cvalid := by
  unfold noteOutput; split <;> simp
@[simp] theorem noteOutput_cutcl (y : Word) (st : Status) : (noteOutput y st).cutcl = st.cutcl := by
  unfold noteOutput; split <;> simp
@[simp] theorem noteOutput_rescl (y : Word) (st : Status) : (noteOutput y st).rescl = st.rescl := by
  unfold noteOutput; split <;> simp

/-! ## Staging writes -/

@[simp] theorem writeStaging_s1 (r : RegName) (v : Word) (s : State) : (writeStaging r v s).s1 = s.s1 := by
  cases r <;> rfl
@[simp] theorem writeStaging_s2 (r : RegName) (v : Word) (s : State) : (writeStaging r v s).s2 = s.s2 := by
  cases r <;> rfl
@[simp] theorem writeStaging_s3 (r : RegName) (v : Word) (s : State) : (writeStaging r v s).s3 = s.s3 := by
  cases r <;> rfl
@[simp] theorem writeStaging_s4 (r : RegName) (v : Word) (s : State) : (writeStaging r v s).s4 = s.s4 := by
  cases r <;> rfl
@[simp] theorem writeStaging_fbr (r : RegName) (v : Word) (s : State) : (writeStaging r v s).fbr = s.fbr := by
  cases r <;> rfl
@[simp] theorem writeStaging_b0 (r : RegName) (v : Word) (s : State) : (writeStaging r v s).b0 = s.b0 := by
  cases r <;> rfl
@[simp] theorem writeStaging_b1 (r : RegName) (v : Word) (s : State) : (writeStaging r v s).b1 = s.b1 := by
  cases r <;> rfl
@[simp] theorem writeStaging_a1 (r : RegName) (v : Word) (s : State) : (writeStaging r v s).a1 = s.a1 := by
  cases r <;> rfl
@[simp] theorem writeStaging_rg (r : RegName) (v : Word) (s : State) : (writeStaging r v s).rg = s.rg := by
  cases r <;> rfl
@[simp] theorem writeStaging_wt (r : RegName) (v : Word) (s : State) : (writeStaging r v s).wt = s.wt := by
  cases r <;> rfl
@[simp] theorem writeStaging_afs (r : RegName) (v : Word) (s : State) : (writeStaging r v s).afs = s.afs := by
  cases r <;> rfl
@[simp] theorem writeStaging_acut (r : RegName) (v : Word) (s : State) : (writeStaging r v s).acut = s.acut := by
  cases r <;> rfl
@[simp] theorem writeStaging_ares (r : RegName) (v : Word) (s : State) : (writeStaging r v s).ares = s.ares := by
  cases r <;> rfl
@[simp] theorem writeStaging_out (r : RegName) (v : Word) (s : State) : (writeStaging r v s).out = s.out := by
  cases r <;> rfl
@[simp] theorem writeStaging_status (r : RegName) (v : Word) (s : State) :
    (writeStaging r v s).status = s.status := by cases r <;> rfl
@[simp] theorem writeStaging_ecmd (r : RegName) (v : Word) (s : State) : (writeStaging r v s).ecmd = s.ecmd := by
  cases r <;> rfl
@[simp] theorem writeStaging_pending (r : RegName) (v : Word) (s : State) :
    (writeStaging r v s).pending = s.pending := by cases r <;> rfl
@[simp] theorem writeStaging_resp (r : RegName) (v : Word) (s : State) : (writeStaging r v s).resp = s.resp := by
  cases r <;> rfl

/-! ## The register map -/

theorem regOffset_injective {r r' : RegName} (h : regOffset r = regOffset r') : r = r' := by
  revert h; cases r <;> cases r' <;> decide

@[simp] theorem regAt_regOffset (r : RegName) : regAt (regOffset r) = some r := by
  cases r <;> decide

theorem regOffset_of_regAt {off : Offset} {r : RegName} (h : regAt off = some r) : regOffset r = off := by
  have := List.find?_some h
  simpa using this

theorem regOffset_aligned (r : RegName) : (regOffset r).toNat % 4 = 0 := by cases r <;> decide

theorem regOffset_mapped (r : RegName) : (regOffset r).toNat < 0x90 := by cases r <;> decide

/-- A register is reached by a word access at its offset. -/
@[simp] theorem target_regOffset (r : RegName) : target (regOffset r) 4 = some r := by
  cases r <;> decide

/-- The accesses that reach a register are the word accesses at its offset. -/
theorem target_eq_some {off : Offset} {size : Nat} {r : RegName} :
    target off size = some r ↔ size = 4 ∧ off = regOffset r := by
  constructor
  · intro h
    unfold target at h
    split at h
    · cases h
    · rename_i h1
      split at h
      · cases h
      · exact ⟨by omega, (regOffset_of_regAt h).symm⟩
  · rintro ⟨rfl, rfl⟩
    exact target_regOffset r

/-- An access reaches no register exactly when it is not well formed. -/
theorem target_eq_none {off : Offset} {size : Nat} :
    target off size = none ↔ size ≠ 4 ∨ off.toNat % 4 ≠ 0 ∨ 0x90 ≤ off.toNat := by
  constructor
  · intro h
    by_contra hc
    simp only [not_or, not_le, ne_eq, Decidable.not_not] at hc
    have key : ∀ o : Offset, o.toNat % 4 = 0 → o.toNat < 0x90 → regAt o ≠ none := by decide
    exact key off hc.2.1 hc.2.2 (by simpa [target, hc.1, hc.2.1, hc.2.2] using h)
  · intro h
    unfold target
    by_cases h1 : size ≠ 4 ∨ off.toNat % 4 ≠ 0
    · simp [h1]
    · have h2 : 0x90 ≤ off.toNat := by
        rcases h with h | h | h
        · exact absurd (Or.inl h) h1
        · exact absurd (Or.inr h) h1
        · exact h
      rw [if_neg h1, if_pos h2]

/-- CORE accepts exactly the well-formed accesses. -/
theorem target_isSome (a : Access) : (target a.off a.size).isSome = a.wellFormed := by
  rcases h : target a.off a.size with _ | r
  · rcases target_eq_none.mp h with h | h | h <;>
      simp [Access.wellFormed, Access.sizeOk, Access.aligned, Access.mapped, h]
  · obtain ⟨h1, h2⟩ := target_eq_some.mp h
    have h3 := regOffset_aligned r
    have h4 := regOffset_mapped r
    simp [Access.wellFormed, Access.sizeOk, Access.aligned, Access.mapped, h1, h2, h3, h4]

/-! ## Commands and the step -/

theorem exec_nop (s : State) : exec .nop s = .next s := rfl

theorem exec_init (s : State) :
    exec .init s = .next (if sampleRateValid s.pFs then startStream s else refuseRate s) := by
  simp only [exec, execInit]; split <;> rfl

theorem exec_setp (s : State) : exec .setp s = .next (setParameters Config.epsHz s) := rfl

theorem exec_proc (s : State) : exec .proc s = .next (processSample Config.compGain Config.tanh s) := rfl

theorem exec_reset (s : State) : exec .reset s = .next (zeroFilterMemory s) := rfl

/-- What SETP can do. -/
theorem setParameters_cases (eps : Word) (s : State) :
    (s.status.inited = false ∧ setParameters eps s = reject .eSeq (encode .setp) s) ∨
    (s.status.inited = true ∧ setpOperandsValid s.pCut s.pRes s.pWt = false ∧
      setParameters eps s = reject .eParam (encode .setp) s) ∨
    (s.status.inited = true ∧ setpOperandsValid s.pCut s.pRes s.pWt = true ∧
      setParameters eps s = publish (cpe eps s.afs s.pCut s.pRes) s) := by
  unfold setParameters
  cases h1 : s.status.inited <;> cases h2 : setpOperandsValid s.pCut s.pRes s.pWt <;> simp

/-- What PROC can do. -/
theorem processSample_cases (compGain : Word) (th : Word → Word) (s : State) :
    (ready s.status = false ∧ processSample compGain th s = reject .eSeq (encode .proc) s) ∨
    (ready s.status = true ∧ isNaN s.pIn = true ∧
      processSample compGain th s = reject .eNanin (encode .proc) s) ∨
    (ready s.status = true ∧ isNaN s.pIn = false ∧
      processSample compGain th s =
        commitTaps (computeTaps compGain th s s.pIn) (mixTaps (computeTaps compGain th s s.pIn) s.wt) s) := by
  unfold processSample sampleValid
  cases h1 : ready s.status <;> cases h2 : isNaN s.pIn <;> simp [datapathStep]

/-- Every command answers a next state. -/
theorem exec_next (i : Instr) (s : State) : ∃ t, exec i s = .next t := by
  cases i
  · exact ⟨_, exec_nop s⟩
  · exact ⟨_, exec_init s⟩
  · exact ⟨_, exec_setp s⟩
  · exact ⟨_, exec_proc s⟩
  · exact ⟨_, exec_reset s⟩

/-- What a CMD write does: it runs the decoded command or rejects the word. -/
theorem execute_cases (v : Word) (s : State) :
    (∃ i, decode v = .command i ∧ execute v s = exec i s) ∨
    (∃ why, decode v = .illegal why ∧ execute v s = .next (reject .eIll v s)) := by
  unfold execute
  cases h : decode v with
  | command i => exact .inl ⟨i, rfl, rfl⟩
  | illegal why => exact .inr ⟨why, rfl, rfl⟩

/-- Everything a step can do: wait, reset, answer a read, answer a bad write, or perform a write and answer it. -/
theorem step_cases {s t : State} (h : step s = .next t) :
    (s.pending = [] ∧ t = s) ∨
    (∃ rest, s.pending = .hwReset :: rest ∧ t = { State.reset with pending := rest }) ∨
    (∃ off size rest, s.pending = .access (.read off size) :: rest ∧
      t = { s with pending := rest, resp := some (memRead off size s) }) ∨
    (∃ off size v rest, s.pending = .access (.write off size v) :: rest ∧ target off size = none ∧
      t = { s with pending := rest, resp := some (.writeDone .busErr) }) ∨
    (∃ r v rest u, s.pending = .access (.write (regOffset r) 4 v) :: rest ∧
      writeReg r v { s with pending := rest } = .next u ∧ t = respond (.writeDone .okay) u) := by
  unfold step serveNext at h
  split at h
  · rename_i hp
    exact .inl ⟨hp, by cases h; rfl⟩
  · rename_i e rest hp
    cases e with
    | hwReset => exact .inr (.inl ⟨rest, hp, by cases h; rfl⟩)
    | access a =>
      cases a with
      | read off size =>
        refine .inr (.inr (.inl ⟨off, size, rest, hp, ?_⟩))
        simp only [serveEvent, serveAccess, Host.Outcome.next.injEq] at h
        rw [← h]; rfl
      | write off size v =>
        simp only [serveEvent, serveAccess, memWrite] at h
        split at h
        · rename_i ht
          exact .inr (.inr (.inr (.inl ⟨off, size, v, rest, hp, ht, by cases h; rfl⟩)))
        · rename_i r ht
          obtain ⟨rfl, rfl⟩ := target_eq_some.mp ht
          refine .inr (.inr (.inr (.inr ⟨r, v, rest, ?_⟩)))
          cases hw : writeReg r v { s with pending := rest } with
          | next u => rw [hw] at h; exact ⟨u, hp, rfl, by cases h; rfl⟩
          | fault f => rw [hw] at h; cases h
          | refused f => rw [hw] at h; cases h

/-- What a write to a register can do (R89). -/
theorem writeReg_cases {r : RegName} {v : Word} {s t : State} (h : writeReg r v s = .next t) :
    (r = .cmd ∧ execute v s = .next t) ∨ (r = .status ∧ t = writeStatus v s) ∨
    (regAccess r = .rw ∧ t = writeStaging r v s) ∨ (regAccess r = .ro ∧ t = s) := by
  cases r <;> simp_all [writeReg, regAccess]

end Sys2Proof.Machine
end

