-- ==== Sys2Proof/Laws/PerInstr.lean ====
section
/-! SUPPORT. Per-command facts about the encoding (spec/30_encoding.md R120 to R123). -/

namespace Sys2Proof.Laws.EncodingFields

/-- The command word of `i` has RSV = 0 and `i`'s opcode, is a well-formed command word, and is below 5. -/
def Statement (i : Instr) : Prop :=
  rsvField (encode i) = 0 ∧ opField (encode i) = opcodeOf i ∧ commandWordWellFormed (encode i) = true ∧
    (encode i).toNat < 5

theorem nop : Statement .nop := by unfold Statement; decide
theorem init : Statement .init := by unfold Statement; decide
theorem setp : Statement .setp := by unfold Statement; decide
theorem proc : Statement .proc := by unfold Statement; decide
theorem reset : Statement .reset := by unfold Statement; decide

end Sys2Proof.Laws.EncodingFields
end

