-- ==== Sys2Proof/Tests/Slice0.lean ====
section
/-! SUPPORT. Small tests against the words and vectors of spec/ (95_test_vectors.md unless another file is named), and for
each statement with hypotheses a state and operands that meet them. -/

namespace Sys2Proof.Tests

open Sys2Proof Sys2Proof.Machine

/-! ## States the tests use -/

/-- The machine after hardware reset with events waiting. -/
def serving (es : List PlatformEvent) : State := { State.reset with pending := es }

/-- Mode CONFIGURED with the staged operands of R264's example. -/
def configured : State :=
  { State.reset with
    pFs := 0x472C4400#32, afs := 0x472C4400#32, pCut := 0x447A0000#32, pRes := 0x3F000000#32
    pWt := ⟨0#32, 0#32, 0#32, 0#32, 0x3F800000#32⟩
    status := { Status.zero with inited := true } }

/-- Mode READY with the active set of R264's example and the input 1.0. -/
def readyExample : State :=
  { configured with
    acut := 0x447A0000#32, ares := 0x3F000000#32, b0 := 0x3DD0C2C9#32, b1 := 0x3CFA8358#32
    a1 := 0x3F5E138C#32, rg := 0x3F011912#32, wt := configured.pWt, pIn := 0x3F800000#32
    status := { Status.zero with inited := true, cvalid := true } }

/-- Mode READY with RG = +0, the coefficients of row C-b, the weights of section 2.6 row 5 and the input +∞: a PROC whose
output overflows whatever COMP_GAIN and TANH are. -/
def overflowing : State :=
  { State.reset with
    b0 := 0x3F617DB9#32, b1 := 0x3E874B6F#32, a1 := 0xBE148DC0#32
    wt := ⟨0x7F7FFFFF#32, 0x7F7FFFFF#32, 0#32, 0#32, 0#32⟩
    pIn := 0x7F800000#32
    status := { Status.zero with inited := true, cvalid := true } }

/-! ## Encoding (R120 to R125, section 2.7) -/

theorem test_decode_nop : decode 0b00000000000000000000000000000000#32 = .command .nop := by decide
theorem test_decode_init : decode 0b00000000000000000000000000000001#32 = .command .init := by decide
theorem test_decode_setp : decode 0b00000000000000000000000000000010#32 = .command .setp := by decide
theorem test_decode_proc : decode 0b00000000000000000000000000000011#32 = .command .proc := by decide
theorem test_decode_reset : decode 0b00000000000000000000000000000100#32 = .command .reset := by decide
theorem test_decode_illegal_opcodes :
    decode 0x00000005#32 = .illegal .illegalOpcode ∧ decode 0x0000000F#32 = .illegal .illegalOpcode := by decide
theorem test_decode_reserved_bits :
    decode 0x00000010#32 = .illegal .reservedBits ∧ decode 0x80000001#32 = .illegal .reservedBits ∧
      decode 0xFFFFFFFF#32 = .illegal .reservedBits := by decide
theorem test_table_words : decodeTableWord 32 2 = some .setp ∧ decodeTableWord 32 19 = none ∧
    decodeTableWord 8 3 = some .proc := by decide
theorem test_bytes_little_endian :
    bytesOfWord 0x12345678#32 = [0x78#8, 0x56#8, 0x34#8, 0x12#8] ∧
      wordOfBytes [0x78#8, 0x56#8, 0x34#8, 0x12#8] = some 0x12345678#32 := by decide

/-! ## Well-formedness: an ill-formed term for each check -/

theorem test_wellformed_refuses_size : (Access.read 0x04 2).wellFormed = false := by decide
theorem test_wellformed_refuses_alignment : (Access.write 0x01 4 3#32).wellFormed = false := by decide
theorem test_wellformed_refuses_unmapped : (Access.read 0x90 4).wellFormed = false := by decide
theorem test_wellformed_accepts_ecmd : (Access.read 0x8C 4).wellFormed = true := by decide
theorem test_wellformed_refuses_rsv : commandWordWellFormed 0x00000013#32 = false := by decide
theorem test_wellformed_refuses_opcode : commandWordWellFormed 0x00000005#32 = false := by decide

/-! ## Arithmetic (section 2.1) -/

theorem test_fmul_overflow : fmul 0x40008C89#32 0x7F61B1E6#32 = 0x7F800000#32 := by decide
theorem test_fadd_opposite_infinities : fadd 0x7F800000#32 0xFF800000#32 = 0x7FC00000#32 := by decide
theorem test_fmul_zero_sign : fmul 0x00000000#32 0xBF800000#32 = 0x80000000#32 := by decide
theorem test_fsub_negative_zeros : fsub 0x80000000#32 0x00000000#32 = 0x80000000#32 ∧
    fsub 0x80000000#32 0x80000000#32 = 0x00000000#32 := by decide
theorem test_fmul_subnormals : fmul 0x3EFAE148#32 0x00000001#32 = 0x00000000#32 ∧
    fmul 0x3EFAE148#32 0x00000002#32 = 0x00000001#32 := by decide
theorem test_tanh_reference : tanhCR 0x3F000000#32 = 0x3EEC9A9F#32 ∧ tanhCR 0xBF800000#32 = 0xBF42F7D6#32 ∧
    tanhCR 0x39B89BA3#32 ≠ 0x39B89BA3#32 ∧ tanhCR 0x39B89BA2#32 = 0x39B89BA2#32 := by decide +kernel
theorem test_tanh_reference_saturation : tanhCR 0x41102CB3#32 = 0x3F7FFFFF#32 ∧
    tanhCR 0x41102CB4#32 = 0x3F800000#32 := by decide +kernel
/-- 30_encoding.md R126: `f:1000.0` is 0x447A0000; `f:-0.0` is 0x80000000. -/
theorem test_literals : literalWord (.decimal false 10000 1) = 0x447A0000#32 ∧
    literalWord (.decimal true 0 1) = 0x80000000#32 ∧ literalWord .nan = 0x7FC00000#32 := by decide +kernel

/-! ## The coefficient evaluator (sections 2.2 and 2.3, EPS_HZ = 1.0) -/

theorem test_cpe_subnormal_rate :
    cpe 0x3F800000#32 0x00000002#32 0x447A0000#32 0x3F800000#32 =
      { acut := 0x00000001#32, ares := 0x3F800000#32, cutcl := true, rescl := false, b0 := 0x3F5FD1DD#32,
        b1 := 0x3E864AB8#32, a1 := 0xBE0BDCE0#32, rg := 0x3F6E1EEA#32 } := by decide +kernel
theorem test_cpe_upper_clamp :
    cpe 0x3F800000#32 0x473B8000#32 0x46EA6000#32 0x40000000#32 =
      { acut := 0x46B7C000#32, ares := 0x3F800000#32, cutcl := true, rescl := true, b0 := 0x3F617DB9#32,
        b1 := 0x3E874B6F#32, a1 := 0xBE148DC0#32, rg := 0x3F6C5D13#32 } := by decide +kernel
theorem test_cutoff_upper_bound_wins : clampCutoff 0x3F800000#32 0x3FC00000#32 0x00000000#32 = 0x3F3C28F6#32 := by
  decide +kernel
theorem test_resonance_negative_zero_passes :
    clampResonance 0x80000000#32 = 0x80000000#32 ∧ resonanceClamped 0x80000000#32 = false := by decide

/-! ## The datapath (sections 2.4 to 2.6) -/

theorem test_stage_overshoot :
    stageOutput 0x3F617DB9#32 0x3E874B6F#32 0xBE148DC0#32 0x3F800000#32 ⟨0x3F800000#32, 0x3F617DB9#32⟩ =
      0x3F823687#32 := by decide +kernel
theorem test_feedback_drive_large_gain :
    feedbackDrive 0x5F800000#32 0x3F816746#32 0x3F000000#32 0x1E3CE508#32 = 0xBFA352EF#32 := by decide +kernel
theorem test_mix_opposite_overflow :
    mixTaps ⟨0x3F800000#32, 0x3F823687#32, 0x3F8214A0#32, 0x3F80215D#32, 0x3F799846#32⟩
      ⟨0#32, 0x7F7FFFFF#32, 0xFF7FFFFF#32, 0#32, 0#32⟩ = 0x7FC00000#32 := by decide +kernel

/-! ## One command each, and the bus (programs P1 and P3, section 2.8) -/

theorem test_nop_step : step (serving [commandWrite 0#32]) =
    .next { State.reset with resp := some (.writeDone .okay) } := rfl

theorem test_init_latches_rate : startStream { readyExample with pFs := 0x47BB8000#32 } =
    { State.reset with
      pFs := 0x47BB8000#32, afs := 0x47BB8000#32, pCut := 0x447A0000#32, pRes := 0x3F000000#32
      pWt := ⟨0#32, 0#32, 0#32, 0#32, 0x3F800000#32⟩, pIn := 0x3F800000#32
      status := { Status.zero with inited := true } } := by decide

theorem test_init_rejected_status : statusWord (refuseRate { readyExample with pFs := 0#32 }).status = 0x00000100#32 ∧
    (refuseRate { readyExample with pFs := 0#32 }).b0 = 0x3DD0C2C9#32 := by decide

theorem test_setp_latches : (setParameters 0x3F800000#32 configured).b1 = 0x3CFA8358#32 ∧
    statusWord (setParameters 0x3F800000#32 configured).status = 0x00000007#32 := by decide +kernel

theorem test_setp_rejects_nan : statusWord (setParameters 0x3F800000#32 { configured with pRes := 0x7FC00000#32 }).status
    = 0x00000201#32 := by decide

/-- COMP_GAIN = 0.5 and TANH_CR: the first PROC of program P1. -/
theorem test_proc_first_sample :
    (processSample 0x3F000000#32 tanhCR readyExample).out = 0x38DA6837#32 ∧
      (processSample 0x3F000000#32 tanhCR readyExample).s3 = ⟨0x3C243795#32, 0x3A85EA1C#32⟩ := by decide +kernel

/-- The second PROC of program P1, from the latches of the first. -/
theorem test_proc_second_sample :
    (processSample 0x3F000000#32 tanhCR
      { readyExample with
        pIn := 0#32, s1 := ⟨0x3F76F1E7#32, 0x3DC96071#32⟩, s2 := ⟨0x3DC96071#32, 0x3C243795#32⟩
        s3 := ⟨0x3C243795#32, 0x3A85EA1C#32⟩, s4 := ⟨0x3A85EA1C#32, 0x38DA6837#32⟩, fbr := 0x38DA6837#32 }).out =
      0x39FEF9AB#32 := by decide +kernel

theorem test_reset_keeps_coefficients :
    (zeroFilterMemory { readyExample with out := 0x3AA6E829#32, fbr := 0x3AA6E829#32 }) = readyExample := by decide

theorem test_status_write_all_ones :
    statusWord (writeStatus 0xFFFFFFFF#32 { readyExample with status := ⟨true, true, true, true, true, true, true, true, true, true⟩ }).status
      = 0x0000001F#32 := by decide

theorem test_illegal_word_step : step (serving [commandWrite 0x00000013#32]) =
    .next { State.reset with
      status := { Status.zero with eIll := true }, ecmd := 0x00000013#32, resp := some (.writeDone .okay) } := rfl

/-! ## Hypotheses are met -/

theorem witness_StepRunsDecodedCommand :
    (serving [.access (.write 0x00#8 4 0x00000003#32)]).pending = .access (.write 0x00#8 4 0x00000003#32) :: [] ∧
      decode 0x00000003#32 = .command .proc ∧ Instr.proc.wellFormed = true ∧
      exec .proc { serving [.access (.write 0x00#8 4 0x00000003#32)] with pending := [] } =
        .next (reject .eSeq 0x00000003#32 State.reset) := ⟨rfl, by decide, rfl, rfl⟩

theorem witness_StepRunsDecodedCommand_illegal :
    (serving [.access (.write 0x00#8 4 0x00000013#32)]).pending = .access (.write 0x00#8 4 0x00000013#32) :: [] ∧
      decode 0x00000013#32 = .illegal .reservedBits ∧ decode 0x00000005#32 = .illegal .illegalOpcode :=
  ⟨rfl, by decide, by decide⟩

theorem witness_DecodeInvertsEncode : Instr.proc.wellFormed = true := rfl

theorem witness_EveryWordIsOneCommandOrIllegal_reserved : rsvField 0x00000010#32 ≠ 0 := by decide
theorem witness_EveryWordIsOneCommandOrIllegal_opcode :
    rsvField 0x00000005#32 = 0 ∧ 5 ≤ (opField 0x00000005#32).toNat ∧ rsvField 0x0000000F#32 = 0 ∧
      5 ≤ (opField 0x0000000F#32).toNat := by decide

theorem witness_PlacedWordRunsNext : decodeTableWord 32 4 = some .reset ∧
    exec .reset State.reset = .next (zeroFilterMemory State.reset) := ⟨by decide, rfl⟩

theorem witness_NoStepStops : State.reset.pending = [] := rfl

theorem witness_BusErrorChangesNothing_size :
    (2 ≠ 4 ∨ (0x04#8 : Offset).toNat % 4 ≠ 0 ∨ 0x90 ≤ (0x04#8 : Offset).toNat) ∧
      (serving [.access (.read 0x04#8 2)]).pending = .access (.read 0x04#8 2) :: [] := ⟨.inl (by decide), rfl⟩
theorem witness_BusErrorChangesNothing_misaligned :
    (4 ≠ 4 ∨ (0x01#8 : Offset).toNat % 4 ≠ 0 ∨ 0x90 ≤ (0x01#8 : Offset).toNat) ∧
      (serving [.access (.write 0x01#8 4 3#32)]).pending = .access (.write 0x01#8 4 3#32) :: [] :=
  ⟨.inr (.inl (by decide)), rfl⟩
theorem witness_BusErrorChangesNothing_unmapped :
    (4 ≠ 4 ∨ (0x90#8 : Offset).toNat % 4 ≠ 0 ∨ 0x90 ≤ (0x90#8 : Offset).toNat) ∧
      (serving [.access (.read 0x90#8 4)]).pending = .access (.read 0x90#8 4) :: [] :=
  ⟨.inr (.inr (by decide)), rfl⟩
theorem witness_BusErrorChangesNothing_last_mapped :
    (0x8C#8 : Offset).toNat % 4 = 0 ∧ (0x8C#8 : Offset).toNat < 0x90 ∧
      (serving [.access (.read 0x8C#8 4)]).pending = .access (.read 0x8C#8 4) :: [] ∧
      (serving [.access (.write 0x8C#8 4 1#32)]).pending = .access (.write 0x8C#8 4 1#32) :: [] :=
  ⟨by decide, by decide, rfl, rfl⟩

theorem witness_ReadReturnsRegister :
    (serving [.access (.read (regOffset .ecmd) 4)]).pending = .access (.read (regOffset .ecmd) 4) :: [] ∧
      (0x8C#8 : Offset).toNat % 4 = 0 ∧ (0x8C#8 : Offset).toNat < 0x90 := ⟨rfl, by decide, by decide⟩

theorem witness_ReadOnlyWriteIgnored : regAccess .b0 = .ro ∧
    (serving [.access (.write (regOffset .b0) 4 0x12345678#32)]).pending =
      .access (.write (regOffset .b0) 4 0x12345678#32) :: [] := ⟨rfl, rfl⟩

theorem witness_StagingWriteKeepsPattern : regAccess .pCut = .rw ∧
    (serving [.access (.write (regOffset .pCut) 4 0x7FC00001#32)]).pending =
      .access (.write (regOffset .pCut) 4 0x7FC00001#32) :: [] := ⟨rfl, rfl⟩

theorem witness_StatusWriteClearsWrittenOnes :
    (serving [.access (.write 0x04#8 4 0x00000100#32)]).pending = .access (.write 0x04#8 4 0x00000100#32) :: [] := rfl

theorem witness_WindowSelectsOffset_inside : (0xFF < 0x100) ∧ Config.base + 0xFF = Config.base + 0xFF := ⟨by decide, rfl⟩
theorem witness_WindowSelectsOffset_outside :
    Config.base + 0x100 < Config.base ∨ Config.base + 0xFF < Config.base + 0x100 := .inr (by omega)

theorem witness_HardwareResetRestoresAll : ({ readyExample with pending := [.hwReset] } : State).pending = .hwReset :: [] := rfl

theorem witness_NopChangesNothing : opField 0x00000010#32 = 0 ∧ rsvField 0x00000010#32 ≠ 0 := by decide

theorem witness_InitStartsStream : isFinite configured.pFs = true ∧ fgt configured.pFs 0x00000000#32 = true := by decide
/-- R260: the smallest subnormal is a valid rate. -/
theorem witness_InitStartsStream_smallest :
    isFinite 0x00000001#32 = true ∧ fgt 0x00000001#32 0x00000000#32 = true := by decide

theorem witness_InitRejectsInvalidRate : sampleRateValid State.reset.pFs = false ∧ sampleRateValid 0x80000000#32 = false ∧
    sampleRateValid 0xBF800000#32 = false ∧ sampleRateValid 0x7F800000#32 = false ∧
    sampleRateValid 0x7FC00000#32 = false := by decide

theorem witness_SetpPublishesActiveSet : configured.status.inited = true ∧ isNaN configured.pCut = false ∧
    isNaN configured.pRes = false ∧ weightsFinite configured.pWt = true := by decide

theorem witness_SetpRejectsBadOperand : configured.status.inited = true ∧
    isNaN ({ configured with pCut := 0x7FC00000#32 } : State).pCut = true ∧
    isNaN ({ configured with pRes := 0xFFC00001#32 } : State).pRes = true ∧
    isFinite ({ configured with pWt := { configured.pWt with e := 0x7F800000#32 } } : State).pWt.e = false := by decide

theorem witness_OutOfSequenceRejected : State.reset.status.inited = false ∧
    (configured.status.inited && configured.status.cvalid) = false := by decide

theorem witness_ProcRunsDatapath : readyExample.status.inited = true ∧ readyExample.status.cvalid = true ∧
    isNaN readyExample.pIn = false := by decide

theorem witness_ProcRejectsNanInput :
    ({ readyExample with pIn := 0xFFC00001#32 } : State).status.inited = true ∧
      ({ readyExample with pIn := 0xFFC00001#32 } : State).status.cvalid = true ∧
      isNaN ({ readyExample with pIn := 0xFFC00001#32 } : State).pIn = true := by decide

/-- The product of +0 and COMP_GAIN is +0 in every instance. -/
theorem fmul_zero_compGain : fmul 0x00000000#32 Config.compGain = 0x00000000#32 := by
  have hle : Config.compGain.toNat ≤ 0x5F800000 := by
    unfold Config.compGain
    split
    · rename_i h; simpa [Config.compGainAdmissible] using h
    · decide
  have hm : magBits Config.compGain ≤ 0x5F800000 := le_trans (Nat.mod_le _ _) hle
  have hf : isFinite Config.compGain = true := (isFinite_iff _).mpr (lt_of_le_of_lt hm (by decide))
  have hs : signBit Config.compGain = false := by
    rw [← Bool.not_eq_true, signBit_iff]; omega
  have h0 : isNaN 0x00000000#32 = false ∧ isInf 0x00000000#32 = false ∧ signBit 0x00000000#32 = false ∧
    magnitude 0x00000000#32 = 0 := by decide
  unfold fmul
  rw [isNaN_of_finite hf, isInf_of_finite hf, hs, h0.1, h0.2.1, h0.2.2.1, h0.2.2.2, Nat.zero_mul]
  decide

theorem witness_NonFiniteOutputOnlyNotifies : reportedCause (encode .proc) overflowing = some .nfOut := by
  have hk : feedbackGain overflowing.rg = 0x00000000#32 := by decide
  have hd : driveGain Config.compGain overflowing.rg = 0x3F800000#32 := by
    unfold driveGain; rw [hk, fmul_zero_compGain]; decide
  have hfb : feedbackDrive Config.compGain overflowing.rg overflowing.fbr overflowing.pIn = 0x7F800000#32 := by
    unfold feedbackDrive; rw [hd, hk]; decide
  have hnl : Config.tanh 0x7F800000#32 = 0x3F800000#32 := by
    unfold Config.tanh Config.lawful
    rw [if_neg (by decide), if_neg (by decide), if_pos (by decide), if_neg (by decide)]; rfl
  have ht : computeTaps Config.compGain Config.tanh overflowing overflowing.pIn =
      computeTaps 0x3F000000#32 (fun _ => 0x3F800000#32) overflowing overflowing.pIn := by
    unfold computeTaps; rw [hfb, hnl]
  have hy : isFinite (mixTaps (computeTaps 0x3F000000#32 (fun _ => 0x3F800000#32) overflowing overflowing.pIn)
      overflowing.wt) = false := by decide +kernel
  have hdec : decode (encode .proc) = .command .proc := by decide
  unfold reportedCause
  rw [hdec]
  simp only [ht, hy]
  decide

/-- After that PROC the mode is READY and the input is no NaN, so a later PROC is accepted. -/
theorem witness_NonFiniteOutputOnlyNotifies_later_sample :
    exec .proc overflowing = .next (datapathStep Config.compGain Config.tanh overflowing.pIn overflowing) ∧
      ready (datapathStep Config.compGain Config.tanh overflowing.pIn overflowing).status = true ∧
      isNaN (datapathStep Config.compGain Config.tanh overflowing.pIn overflowing).pIn = false := by
  refine ⟨rfl, ?_, ?_⟩
  · simp only [datapathStep, commitTaps_status, ready, noteOutput_inited, noteOutput_cvalid]; decide
  · simp only [datapathStep, commitTaps_pIn]; decide

theorem witness_EcmdHoldsLastRejectedWord_command :
    servedCommand (serving [commandWrite 0x00000005#32]) = some 0x00000005#32 ∧
      step (serving [commandWrite 0x00000005#32]) =
        .next (respond (.writeDone .okay) (reject .eIll 0x00000005#32 State.reset)) := ⟨rfl, rfl⟩
theorem witness_EcmdHoldsLastRejectedWord_hwReset : servesReset (serving [.hwReset]) = true ∧
    step (serving [.hwReset]) = .next State.reset := ⟨rfl, rfl⟩
theorem witness_EcmdHoldsLastRejectedWord_other : servesReset (serving [.access (.read 0x04#8 4)]) = false ∧
    servedCommand (serving [.access (.read 0x04#8 4)]) = none ∧
    step (serving [.access (.read 0x04#8 4)]) =
      .next { State.reset with resp := some (.readDone .okay 0x00000000#32) } := ⟨rfl, rfl, rfl⟩

theorem witness_FilterMemoryWriters :
    step { readyExample with fbr := 0x3F800000#32, out := 0x3F800000#32, pending := [commandWrite 4#32] } =
        .next { readyExample with resp := some (.writeDone .okay) } ∧
      filterMemory { readyExample with resp := some (.writeDone .okay) } ≠
        filterMemory { readyExample with fbr := 0x3F800000#32, out := 0x3F800000#32, pending := [commandWrite 4#32] } ∧
      readyExample.out ≠ 0x3F800000#32 := ⟨rfl, by decide, by decide⟩

theorem witness_ActiveSetWriters :
    step { readyExample with afs := 0x3F800000#32, pending := [.hwReset] } = .next State.reset ∧
      activeSet State.reset ≠ activeSet { readyExample with afs := 0x3F800000#32, pending := [.hwReset] } ∧
      State.reset.afs ≠ 0x3F800000#32 := ⟨rfl, by decide, by decide⟩

theorem witness_ModeBitWriters_init :
    step { State.reset with pFs := 0x472C4400#32, pending := [commandWrite 1#32] } =
        .next (respond (.writeDone .okay) (startStream { State.reset with pFs := 0x472C4400#32 })) ∧
      (startStream { State.reset with pFs := 0x472C4400#32 }).status.inited = true ∧
      State.reset.status.inited = false ∧
      servedCommand { State.reset with pFs := 0x472C4400#32, pending := [commandWrite 1#32] } = some 0x00000001#32 :=
  ⟨rfl, rfl, rfl, rfl⟩
theorem witness_ModeBitWriters_setp :
    step { configured with pending := [commandWrite 2#32] } =
        .next (respond (.writeDone .okay) (setParameters Config.epsHz configured)) ∧
      configured.status.cvalid = false ∧ (setParameters Config.epsHz configured).status.cvalid = true :=
  ⟨rfl, rfl, rfl⟩
theorem witness_ModeBitWriters_hwReset :
    step { readyExample with status := { readyExample.status with cutcl := true, rescl := true }, pending := [.hwReset] } =
        .next State.reset ∧
      readyExample.status.inited = true ∧ State.reset.status.inited = false ∧ readyExample.status.cvalid = true ∧
      State.reset.status.cvalid = false ∧ State.reset.status.cutcl ≠ true ∧ State.reset.status.rescl ≠ true :=
  ⟨rfl, rfl, rfl, rfl, rfl, by decide, by decide⟩

theorem witness_StagingWriters :
    step (serving [.access (.write (regOffset .pIn) 4 1#32)]) =
        .next { State.reset with pIn := 1#32, resp := some (.writeDone .okay) } ∧
      staging { State.reset with pIn := 1#32, resp := some (.writeDone .okay) } ≠
        staging (serving [.access (.write (regOffset .pIn) 4 1#32)]) ∧
      exec .nop State.reset = .next State.reset := ⟨rfl, by decide, rfl⟩

theorem witness_StagedParametersInvisibleToProc :
    exec .proc readyExample = .next (datapathStep Config.compGain Config.tanh 0x3F800000#32 readyExample) := rfl

theorem witness_ClrerrClearsStickyBits :
    (serving (programEvents (expandPseudo .clrerr))).pending = programEvents (expandPseudo .clrerr) := rfl

/-- An ordinary sum, the largest finite value plus just under half its last place, and the sum at the overflow limit
(R152, first row). -/
theorem witness_AddSubRoundToNearestEven :
    isFinite 0x3F800000#32 = true ∧ isFinite 0x40000000#32 = true ∧ isFinite 0x7F7FFFFF#32 = true ∧
      isFinite 0x72FFFFFF#32 = true ∧ isFinite 0x73000000#32 = true ∧ isFinite 0xF3000000#32 = true ∧
      |scaled 0x3F800000#32 - scaled 0x40000000#32| < overflowLimit ∧
      scaled 0x3F800000#32 - scaled 0x40000000#32 ≠ 0 ∧ scaled 0x3F800000#32 + scaled 0x40000000#32 ≠ 0 ∧
      |scaled 0x7F7FFFFF#32 + scaled 0x72FFFFFF#32| < overflowLimit ∧
      overflowLimit ≤ |scaled 0x7F7FFFFF#32 + scaled 0x73000000#32| ∧
      overflowLimit ≤ |scaled 0x7F7FFFFF#32 - scaled 0xF3000000#32| := by decide +kernel

/-- An ordinary product, and 18631·2^100 times 1801·2^3, exactly the overflow limit. -/
theorem witness_MulRoundsToNearestEven :
    isFinite 0x3F800000#32 = true ∧ isFinite 0x78918E00#32 = true ∧ isFinite 0x46612000#32 = true ∧
      |scaled 0x3F800000#32 * scaled 0x3F800000#32| < overflowLimit * 2 ^ 149 ∧
      |scaled 0x78918E00#32 * scaled 0x46612000#32| = overflowLimit * 2 ^ 149 := by decide +kernel

theorem witness_DivRoundsToNearestEven :
    isFinite 0x3F800000#32 = true ∧ isZero 0xC0400000#32 = false ∧ isFinite 0xC0400000#32 = true ∧
      |scaled 0x3F800000#32 * 2 ^ 149| < overflowLimit * |scaled 0xC0400000#32| ∧
      isFinite 0x7F000000#32 = true ∧ isFinite 0x3F000000#32 = true ∧ isZero 0x3F000000#32 = false ∧
      overflowLimit * |scaled 0x3F000000#32| ≤ |scaled 0x7F000000#32 * 2 ^ 149| := by decide +kernel

theorem witness_SpecialOperandResults : isNaN 0xFFC00001#32 = true ∧ isZero 0x80000000#32 = true ∧
    isInf 0xFF800000#32 = true ∧ isFinite 0x7F7FFFFF#32 = true ∧
    isNaN (fadd 0x7F800000#32 0xFF800000#32) = true ∧ isNaN (fmul 0x80000000#32 0xBF800000#32) = false ∧
    isNaN 0x00000001#32 = false ∧ isZero 0x00000001#32 = false := by decide

theorem witness_ComparisonsOrderValues : isNaN 0x7F800001#32 = true ∧ isFinite 0x80000000#32 = true ∧
    isFinite 0x00000000#32 = true ∧ isFinite 0x7F7FFFFF#32 = true ∧ isInf 0x7F800000#32 = true ∧
    isInf 0xFF800000#32 = true := by decide

theorem witness_TwoPiConstantNearest : isFinite 0x40C90FDA#32 = true := by decide

/-- A function that satisfies the laws: zeros and infinities as R160 says, +0 elsewhere. -/
def flatTanh (x : Word) : Word :=
  if x = 0x80000000#32 then x else if x = 0x7F800000#32 then K_ONE else if x = 0xFF800000#32 then negOne else 0x00000000#32

theorem witness_EveryAdmissibleTanhCovered : TanhLaws flatTanh ∧ isNaN 0x3F800000#32 = false where
  left := by
    constructor
    · intro x _; unfold flatTanh; split_ifs with h <;> (try subst h) <;> decide
    · intro x _; unfold flatTanh; split_ifs with h <;> (try subst h) <;> decide
    all_goals decide
  right := by decide

/-- EPS_HZ = 1.0: an ordinary cutoff, the crossing bounds of AFS = 1.5, both infinities, a zero, and each bound. -/
theorem witness_CutoffClampRange :
    Config.epsHzAdmissible 0x3F800000#32 = true ∧ sampleRateValid 0x472C4400#32 = true ∧ isNaN 0x447A0000#32 = false ∧
      cutoffClamped 0x3F800000#32 0x472C4400#32 0x447A0000#32 = false ∧
      sampleRateValid 0x3FC00000#32 = true ∧ flt (cutoffBound 0x3FC00000#32) 0x3F800000#32 = true ∧
      isInf 0x7F800000#32 = true ∧ isNaN 0x7F800000#32 = false ∧ isInf 0xFF800000#32 = true ∧
      isNaN 0xFF800000#32 = false ∧ isZero 0x80000000#32 = true ∧ isNaN 0x80000000#32 = false ∧
      flt (cutoffBound 0x472C4400#32) 0x3F800000#32 = false ∧ cutoffBound 0x472C4400#32 = 0x46A8D200#32 ∧
      isNaN 0x46A8D200#32 = false := by decide +kernel

theorem witness_ResonanceClampRange : isNaN 0x3F000000#32 = false ∧ flt 0x3F000000#32 0x00000000#32 = false ∧
    fgt 0x3F000000#32 0x3F800000#32 = false ∧ isNaN 0x80000001#32 = false ∧ flt 0x80000001#32 0x00000000#32 = true ∧
    isNaN 0x3F800001#32 = false ∧ fgt 0x3F800001#32 0x3F800000#32 = true ∧ isNaN 0x80000000#32 = false := by decide

theorem witness_AngularCutoffRange : Config.epsHzAdmissible 0x3F800000#32 = true ∧
    sampleRateValid 0x00000002#32 = true ∧ isNaN 0x447A0000#32 = false := by decide

theorem witness_StageGainRange : inCutoffRange 0x00000000#32 ∧ inCutoffRange 0x40490FDB#32 := by
  unfold inCutoffRange; decide

theorem witness_ResonancePolynomialRange : inCutoffRange 0x40490FDB#32 := by unfold inCutoffRange; decide

theorem witness_SetpCoefficientsBounded : configured.status.inited = true ∧ sampleRateValid configured.afs = true ∧
    setpOperandsValid configured.pCut configured.pRes configured.pWt = true := by decide

theorem witness_FeedbackDriveNeverNan : Config.compGainAdmissible 0x5F800000#32 = true ∧
    inMillis 0x3F816746#32 0 1011 ∧ magBits 0x71800000#32 ≤ powBits 100 ∧ isNaN 0xFF800000#32 = false := by
  unfold inMillis; decide +kernel

/-- An infinite input, and row 3 of section 2.5, where drive times 3e38 overflows. -/
theorem witness_FeedbackDriveNeverNan_overflow : isInf 0xFF800000#32 = true ∧ isNaN 0x7F61B1E6#32 = false ∧
    isFinite 0x7F61B1E6#32 = true ∧ Config.compGainAdmissible 0x3F000000#32 = true ∧ inMillis 0x3F011912#32 0 1011 ∧
    magBits 0x00000000#32 ≤ powBits 100 ∧
    overflowLimit * 2 ^ 149 ≤ |scaled (driveGain 0x3F000000#32 0x3F011912#32) * scaled 0x7F61B1E6#32| := by
  unfold inMillis; decide +kernel

theorem witness_ZeroResonanceHasNoFeedback : Config.compGainAdmissible 0x3F000000#32 = true ∧
    isFinite 0xBF800000#32 = true ∧ isNaN 0x80000000#32 = false ∧ isNaN 0x3F800000#32 = false := by decide

theorem witness_MixerSelectsTopTap : isFinite 0x80000000#32 = true ∧ isFinite 0x3F800000#32 = true ∧
    isFinite 0xBF800000#32 = true := by decide

theorem readyExample_coeffs : CoeffBounds readyExample where
  b0_range := by unfold inMillis; decide +kernel
  b1_range := by unfold inMillis; decide +kernel
  a1_range := by unfold inMillis; decide +kernel
  rg_range := by unfold inMillis; decide +kernel
  b0_sign := by decide
  b1_sign := by decide

theorem witness_ZeroInputKeepsZeroState :
    1 ≤ 3 ∧ ({ readyExample with pIn := 0x00000000#32 } : State).s1 = Stage.zero ∧
      ({ readyExample with pIn := 0x00000000#32 } : State).fbr = 0x00000000#32 ∧
      ready ({ readyExample with pIn := 0x00000000#32 } : State).status = true ∧
      CoeffBounds { readyExample with pIn := 0x00000000#32 } ∧ weightsFinite readyExample.wt = true :=
  ⟨by decide, rfl, rfl, rfl,
    ⟨readyExample_coeffs.b0_range, readyExample_coeffs.b1_range, readyExample_coeffs.a1_range,
      readyExample_coeffs.rg_range, rfl, rfl⟩, by decide⟩

/-- A state in mode READY meets the invariant, and a PROC is its next step. -/
theorem witness_EveryStepKeepsInvariant :
    Inv { readyExample with pending := [commandWrite 3#32] } ∧
      step { readyExample with pending := [commandWrite 3#32] } =
        .next (respond (.writeDone .okay) (processSample Config.compGain Config.tanh readyExample)) where
  left :=
    { mode_legal := fun _ => rfl
      rate_valid := fun _ => by decide
      weights_finite := by decide
      coeffs := ⟨readyExample_coeffs.b0_range, readyExample_coeffs.b1_range, readyExample_coeffs.a1_range,
        readyExample_coeffs.rg_range, rfl, rfl⟩
      pairs := ⟨rfl, rfl, rfl, rfl⟩
      latches := ⟨by decide, by decide, by decide, by decide, by decide⟩ }
  right := rfl

theorem witness_FilterMemoryFiniteAlongEveryRun :
    Sys2Proof.core.run 1 { State.reset with pending := [.access (.write 0x28#8 4 0x3F800000#32)] } =
      .next { State.reset with pIn := 0x3F800000#32, resp := some (.writeDone .okay) } := rfl

end Sys2Proof.Tests
end

section
/-! The order of magnitudes, and the value of a pattern by its sign. -/

namespace Sys2Proof.Machine

/-- Bits 30:0 order the magnitudes: a larger exponent place outweighs every significand. -/
theorem magnitude_mono {v w : Word} (h : magBits v ≤ magBits w) : magnitude v ≤ magnitude w := by
  obtain ⟨e, q, hv, hq, hn⟩ := magBits_split v
  obtain ⟨e', q', hw, hq', hn'⟩ := magBits_split w
  rw [magnitude_of_magBits hv hq.le hn, magnitude_of_magBits hw hq'.le hn']
  rcases lt_trichotomy e e' with hlt | rfl | hgt
  · have hnormal : 2 ^ 23 ≤ q' := by omega
    calc q * 2 ^ e ≤ 2 ^ 24 * 2 ^ e := Nat.mul_le_mul_right _ hq.le
      _ = 2 ^ 23 * 2 ^ (e + 1) := by ring
      _ ≤ q' * 2 ^ e' := Nat.mul_le_mul hnormal (Nat.pow_le_pow_right (by decide) hlt)
  · exact Nat.mul_le_mul_right _ (by omega)
  · omega

theorem scaled_eq_magnitude {v : Word} (hs : signBit v = false) : scaled v = magnitude v := by
  simp [scaled, hs]

/-- The values above zero are those with a clear sign bit and a magnitude. -/
theorem scaled_pos_iff (v : Word) : 0 < scaled v ↔ signBit v = false ∧ 0 < magBits v := by
  have hzero := magnitude_zero_iff v
  cases hs : signBit v
  · simp only [scaled_eq_magnitude hs, true_and]; omega
  · simp [scaled, hs]

/-- Comparing with +0 (R155): no NaN, and a positive place in the order. -/
theorem fgt_posZero_iff (v : Word) : fgt v posZero = true ↔ isNaN v = false ∧ signBit v = false ∧ 0 < magBits v := by
  have hzero : isNaN posZero = false ∧ orderKey posZero = 0 := by decide
  have hkey : 0 < orderKey v ↔ signBit v = false ∧ 0 < magBits v := by
    cases hs : signBit v <;> simp [orderKey, hs]
  simp [fgt, flt, hzero, hkey]

end Sys2Proof.Machine
end

section
/-! The constraints of the parameters (R8): what an admissible pattern is, that every instance has one, and what it says
of the value. -/

namespace Sys2Proof.Config

open Sys2Proof.Machine

theorem compGainAdmissible_iff (v : Word) :
    compGainAdmissible v = true ↔ signBit v = false ∧ magBits v ≤ 0x5F800000 := by
  have hsplit := toNat_eq v
  have hlt := magBits_lt v
  rw [compGainAdmissible, decide_eq_true_iff]
  cases hs : signBit v
  · rw [hs, if_neg Bool.false_ne_true] at hsplit
    simp only [true_and]; omega
  · rw [hs, if_pos rfl] at hsplit
    simp only [Bool.true_eq_false, false_and, iff_false]; omega

theorem epsHzAdmissible_iff (v : Word) : epsHzAdmissible v = true ↔ isFinite v = true ∧ 0 < scaled v := by
  rw [epsHzAdmissible, Bool.and_eq_true, fgt_posZero_iff, scaled_pos_iff]
  exact and_congr_right fun hf => and_iff_right (isNaN_of_finite hf)

/-- The free pattern, or the default 0.5 in its place. -/
theorem compGainAdmissible_compGain : compGainAdmissible compGain = true := by
  unfold compGain
  split
  case isTrue h => exact h
  case isFalse => decide

/-- The free pattern, or 1.0 in its place. -/
theorem epsHzAdmissible_epsHz : epsHzAdmissible epsHz = true := by
  unfold epsHz
  split
  case isTrue h => exact h
  case isFalse => decide

theorem isFinite_of_compGainAdmissible {v : Word} (h : compGainAdmissible v = true) : isFinite v = true := by
  obtain ⟨-, hle⟩ := (compGainAdmissible_iff v).mp h
  exact (isFinite_iff v).mpr (lt_of_le_of_lt hle (by decide))

/-- An admissible COMP_GAIN lies from 0 to 2^64, which is 2^213 units of 2^-149. -/
theorem scaled_bounds_of_compGainAdmissible {v : Word} (h : compGainAdmissible v = true) :
    0 ≤ scaled v ∧ scaled v ≤ 2 ^ 213 := by
  obtain ⟨hs, hle⟩ := (compGainAdmissible_iff v).mp h
  have hmax : magnitude 0x5F800000#32 = 2 ^ 213 := by decide
  have hmag : magnitude v ≤ 2 ^ 213 := hmax ▸ magnitude_mono hle
  rw [scaled_eq_magnitude hs]
  exact ⟨Int.natCast_nonneg _, by exact_mod_cast hmag⟩

/-- Settles O43: each parameter is admissible in every instance, and an admissible pattern has the value R8 asks for. -/
theorem parametersAdmissible : Obligations.ParametersAdmissible := by
  obtain ⟨hnonneg, hle⟩ := scaled_bounds_of_compGainAdmissible compGainAdmissible_compGain
  obtain ⟨hfinite, hpos⟩ := (epsHzAdmissible_iff epsHz).mp epsHzAdmissible_epsHz
  exact ⟨isFinite_of_compGainAdmissible compGainAdmissible_compGain, hnonneg, hle, hfinite, hpos⟩

end Sys2Proof.Config
end

section
/-! What the primitives return on finite operands: the bits 30:0 and the sign of a sum, a product and a quotient, and the
bounds that rounding cannot cross. -/

namespace Sys2Proof.Machine

/-! ## Bounds that rounding keeps -/

/-- Rounding does not pass a finite value that bounds the exact result from above. -/
theorem roundMag_le_magBits {v : Word} {num den : Nat} (hd : 0 < den) (hf : isFinite v = true)
    (h : num ≤ magnitude v * den) : roundMag num den ≤ magBits v := by
  rw [← roundMag_magnitude hd hf]
  exact roundMag_mono hd hd (Nat.mul_le_mul_right _ h)

/-- Rounding does not pass a finite value that bounds the exact result from below. -/
theorem magBits_le_roundMag {v : Word} {num den : Nat} (hd : 0 < den) (hf : isFinite v = true)
    (h : magnitude v * den ≤ num) : magBits v ≤ roundMag num den := by
  rw [← roundMag_magnitude hd hf]
  exact roundMag_mono hd hd (Nat.mul_le_mul_right _ h)

theorem isFinite_of_magBits_le {v w : Word} (hw : isFinite w = true) (h : magBits v ≤ magBits w) :
    isFinite v = true := by
  rw [isFinite_iff] at hw ⊢; omega

theorem isZero_eq_false_iff (v : Word) : isZero v = false ↔ 0 < magnitude v := by
  rw [← Bool.not_eq_true, isZero_iff, ← magnitude_zero_iff]; omega

theorem scaled_eq_neg_magnitude {v : Word} (hs : signBit v = true) : scaled v = -magnitude v := by
  simp [scaled, hs]

theorem scaled_abs (v : Word) : |scaled v| = magnitude v := by
  rw [Int.abs_eq_natAbs, scaled_natAbs]

/-- A bound of bits 30:0 bounds the value on both sides of zero. -/
theorem abs_scaled_le {v w : Word} (h : magBits v ≤ magBits w) : |scaled v| ≤ magnitude w := by
  rw [scaled_abs]; exact_mod_cast magnitude_mono h

/-! ## Sums -/

theorem fadd_finite {a b : Word} (ha : isFinite a = true) (hb : isFinite b = true) :
    fadd a b = if scaled a + scaled b = 0 then zeroOf (signBit a && signBit b)
      else roundTo (decide (scaled a + scaled b < 0)) (scaled a + scaled b).natAbs 1 := by
  simp [fadd, isNaN_of_finite, isInf_of_finite, ha, hb]

theorem magBits_fadd {a b : Word} (ha : isFinite a = true) (hb : isFinite b = true) :
    magBits (fadd a b) = roundMag (scaled a + scaled b).natAbs 1 := by
  rw [fadd_finite ha hb]
  split
  case isTrue h =>
    rw [h, zeroOf, magBits_packBits (by decide)]
    decide
  case isFalse => exact magBits_roundTo _ _ _

/-- A sum has the sign of the exact sum, and an exact zero is negative only from two negative zeros (R153). -/
theorem signBit_fadd {a b : Word} (ha : isFinite a = true) (hb : isFinite b = true) :
    signBit (fadd a b) =
      if scaled a + scaled b = 0 then signBit a && signBit b else decide (scaled a + scaled b < 0) := by
  rw [fadd_finite ha hb]
  split
  case isTrue => exact signBit_packBits (by decide)
  case isFalse => exact signBit_roundTo _ _ _

theorem magBits_fadd_le {a b c : Word} (ha : isFinite a = true) (hb : isFinite b = true) (hc : isFinite c = true)
    (h : |scaled a + scaled b| ≤ magnitude c) : magBits (fadd a b) ≤ magBits c := by
  rw [Int.abs_eq_natAbs] at h
  rw [magBits_fadd ha hb]
  exact roundMag_le_magBits Nat.one_pos hc (by omega)

theorem le_magBits_fadd {a b c : Word} (ha : isFinite a = true) (hb : isFinite b = true) (hc : isFinite c = true)
    (h : magnitude c ≤ |scaled a + scaled b|) : magBits c ≤ magBits (fadd a b) := by
  rw [Int.abs_eq_natAbs] at h
  rw [magBits_fadd ha hb]
  exact magBits_le_roundMag Nat.one_pos hc (by omega)

/-- A sum of values without a sign bit has none and is no smaller than its right operand. -/
theorem fadd_nonneg {a b : Word} (ha : isFinite a = true) (hb : isFinite b = true) (hsa : signBit a = false)
    (hsb : signBit b = false) : signBit (fadd a b) = false ∧ magBits b ≤ magBits (fadd a b) := by
  have hsum : scaled a + scaled b = (magnitude a + magnitude b : Nat) := by
    rw [scaled_eq_magnitude hsa, scaled_eq_magnitude hsb]; rfl
  constructor
  · rw [signBit_fadd ha hb, hsum, hsa]
    simp
    omega
  · apply le_magBits_fadd ha hb hb
    rw [hsum, Nat.abs_cast]
    omega

/-- A difference of values without a sign bit has none when it takes the smaller from the larger; from equal ones it is +0. -/
theorem signBit_fsub_of_le {a b : Word} (ha : isFinite a = true) (hb : isFinite b = true) (hsa : signBit a = false)
    (hsb : signBit b = false) (h : magBits b ≤ magBits a) : signBit (fsub a b) = false := by
  have hle := magnitude_mono h
  rw [fsub, signBit_fadd ha (by simpa using hb), scaled_fneg, scaled_eq_magnitude hsa, scaled_eq_magnitude hsb, hsa]
  simp only [Bool.false_and]
  split
  case isTrue => rfl
  case isFalse => simp only [decide_eq_false_iff_not]; omega

/-! ## Products and quotients -/

theorem fmul_finite {a b : Word} (ha : isFinite a = true) (hb : isFinite b = true) :
    fmul a b = roundTo (signBit a != signBit b) (magnitude a * magnitude b) (2 ^ 149) := by
  simp [fmul, isNaN_of_finite, isInf_of_finite, ha, hb]

theorem fmul_comm {a b : Word} (ha : isFinite a = true) (hb : isFinite b = true) : fmul a b = fmul b a := by
  rw [fmul_finite ha hb, fmul_finite hb ha, Nat.mul_comm, bne_comm]

theorem signBit_fmul {a b : Word} (ha : isFinite a = true) (hb : isFinite b = true) :
    signBit (fmul a b) = (signBit a != signBit b) := by
  rw [fmul_finite ha hb, signBit_roundTo]

theorem signBit_fmul_nonneg {a b : Word} (ha : isFinite a = true) (hb : isFinite b = true) (hsa : signBit a = false)
    (hsb : signBit b = false) : signBit (fmul a b) = false := by
  rw [signBit_fmul ha hb, hsa, hsb]; rfl

theorem magBits_fmul {a b : Word} (ha : isFinite a = true) (hb : isFinite b = true) :
    magBits (fmul a b) = roundMag (magnitude a * magnitude b) (2 ^ 149) := by
  rw [fmul_finite ha hb, magBits_roundTo]

theorem magBits_fmul_le {a b c : Word} (ha : isFinite a = true) (hb : isFinite b = true) (hc : isFinite c = true)
    (h : magnitude a * magnitude b ≤ magnitude c * 2 ^ 149) : magBits (fmul a b) ≤ magBits c := by
  rw [magBits_fmul ha hb]
  exact roundMag_le_magBits (by positivity) hc h

/-- A factor of magnitude at most 1 does not enlarge. -/
theorem magBits_fmul_le_right {a b : Word} (hb : isFinite b = true) (h : magBits a ≤ magBits K_ONE) :
    magBits (fmul a b) ≤ magBits b := by
  have hone : magnitude K_ONE = 2 ^ 149 := by decide
  refine magBits_fmul_le (isFinite_of_magBits_le (by decide) h) hb hb ?_
  rw [Nat.mul_comm (magnitude b), ← hone]
  exact Nat.mul_le_mul_right _ (magnitude_mono h)

theorem magBits_fmul_le_left {a b : Word} (ha : isFinite a = true) (h : magBits b ≤ magBits K_ONE) :
    magBits (fmul a b) ≤ magBits a := by
  rw [fmul_comm ha (isFinite_of_magBits_le (by decide) h)]
  exact magBits_fmul_le_right ha h

/-- Products are ordered as their factors are. -/
theorem magBits_fmul_mono {a b a' b' : Word} (ha' : isFinite a' = true) (hb' : isFinite b' = true)
    (h : magBits a ≤ magBits a') (hb : magBits b ≤ magBits b') : magBits (fmul a b) ≤ magBits (fmul a' b') := by
  rw [magBits_fmul (isFinite_of_magBits_le ha' h) (isFinite_of_magBits_le hb' hb), magBits_fmul ha' hb']
  exact roundMag_mono (by positivity) (by positivity)
    (Nat.mul_le_mul_right _ (Nat.mul_le_mul (magnitude_mono h) (magnitude_mono hb)))

theorem fdiv_finite {a b : Word} (ha : isFinite a = true) (hb : isFinite b = true) (hz : isZero b = false) :
    fdiv a b = roundTo (signBit a != signBit b) (magnitude a * 2 ^ 149) (magnitude b) := by
  simp [fdiv, isNaN_of_finite, isInf_of_finite, ha, hb, hz]

theorem signBit_fdiv {a b : Word} (ha : isFinite a = true) (hb : isFinite b = true) (hz : isZero b = false) :
    signBit (fdiv a b) = (signBit a != signBit b) := by
  rw [fdiv_finite ha hb hz, signBit_roundTo]

theorem magBits_fdiv_le {a b c : Word} (ha : isFinite a = true) (hb : isFinite b = true) (hz : isZero b = false)
    (hc : isFinite c = true) (h : magnitude a * 2 ^ 149 ≤ magnitude c * magnitude b) :
    magBits (fdiv a b) ≤ magBits c := by
  rw [fdiv_finite ha hb hz, magBits_roundTo]
  exact roundMag_le_magBits ((isZero_eq_false_iff b).mp hz) hc h

end Sys2Proof.Machine
end

section
/-! The rational value of a pattern, and how far a rounded result lies from the exact one: half a last place, so at most
2^-23 of any bound of the exact result that is at least 1. -/

namespace Sys2Proof.Machine

/-- The value of a finite pattern (R87). -/
def value (v : Word) : ℚ := scaled v / 2 ^ 149

theorem value_eq_of_scaled {v : Word} {m : ℤ} {k : ℕ} (h : scaled v * 2 ^ k = m * 2 ^ 149) : value v = m / 2 ^ k := by
  rw [value, div_eq_div_iff (by positivity) (by positivity)]
  exact_mod_cast h

theorem value_nonneg_iff (v : Word) : 0 ≤ value v ↔ 0 ≤ scaled v := by
  rw [value, le_div_iff₀ (by positivity), zero_mul]
  exact_mod_cast Iff.rfl

theorem value_nonneg {v : Word} (h : signBit v = false) : 0 ≤ value v := by
  rw [value_nonneg_iff, scaled_eq_magnitude h]; exact Int.natCast_nonneg _

theorem signBit_of_value_pos {v : Word} (h : 0 < value v) : signBit v = false := by
  have hpos : 0 < scaled v := by
    rw [value, div_pos_iff_of_pos_right (by positivity)] at h
    exact_mod_cast h
  exact ((scaled_pos_iff v).mp hpos).1

@[simp] theorem value_fneg (v : Word) : value (fneg v) = -value v := by
  simp [value, neg_div]

/-- A value of the interval in thousandths, said of its rational value. -/
theorem inMillis_iff (v : Word) (lo hi : Int) :
    inMillis v lo hi ↔ isFinite v = true ∧ (lo / 1000 : ℚ) ≤ value v ∧ value v ≤ (hi / 1000 : ℚ) := by
  have hlo : lo * 2 ^ 149 ≤ 1000 * scaled v ↔ (lo / 1000 : ℚ) ≤ value v := by
    rw [value, div_le_div_iff₀ (by positivity) (by positivity), mul_comm (scaled v : ℚ)]
    exact_mod_cast Iff.rfl
  have hhi : 1000 * scaled v ≤ hi * 2 ^ 149 ↔ value v ≤ (hi / 1000 : ℚ) := by
    rw [value, div_le_div_iff₀ (by positivity) (by positivity), mul_comm (scaled v : ℚ)]
    exact_mod_cast Iff.rfl
  rw [inMillis, hlo, hhi]

theorem abs_value_le {v w : Word} (hw : signBit w = false) (h : magBits v ≤ magBits w) : |value v| ≤ value w := by
  have hscaled : |scaled v| ≤ scaled w := by rw [scaled_eq_magnitude hw]; exact abs_scaled_le h
  rw [value, value, abs_div, abs_of_pos (by positivity : (0 : ℚ) < 2 ^ 149)]
  gcongr
  exact_mod_cast hscaled

/-! ## The error of rounding -/

/-- The significand and the exponent place of a rounded magnitude that does not overflow. -/
theorem magnitude_roundTo {neg : Bool} {num den : Nat} (hd : 0 < den) (hf : isFinite (roundTo neg num den) = true) :
    magnitude (roundTo neg num den) =
      roundHalfEven num (den * 2 ^ roundExp num den) * 2 ^ roundExp num den := by
  obtain ⟨hq, hn⟩ := roundSignificand_bounds (num := num) hd
  have hbits := magBits_roundTo neg num den
  rw [isFinite_iff, hbits] at hf
  refine magnitude_of_magBits ?_ hq hn
  rw [hbits]
  unfold roundMag at hf ⊢
  omega

/-- A rounded magnitude lies within 2^-24 of the exact one, plus half the smallest subnormal. -/
theorem magnitude_roundTo_error {neg : Bool} {num den : Nat} (hd : 0 < den)
    (hf : isFinite (roundTo neg num den) = true) :
    2 ^ 24 * (magnitude (roundTo neg num den) * den) ≤ 2 ^ 24 * num + (num + 2 ^ 23 * den) ∧
    2 ^ 24 * num ≤ 2 ^ 24 * (magnitude (roundTo neg num den) * den) + (num + 2 ^ 23 * den) := by
  rw [magnitude_roundTo hd hf]
  have hexp := (roundExp_spec num den).2
  set e := roundExp num den
  obtain ⟨hle, hge, -, -⟩ := roundHalfEven_spec (num := num) (unit := den * 2 ^ e) (by positivity)
  set q := roundHalfEven num (den * 2 ^ e)
  have hunit : 2 ^ 23 * (den * 2 ^ e) ≤ num + 2 ^ 23 * den := by
    rcases hexp with he | he
    · rw [he]; omega
    · have hnum := (Nat.le_div_iff_mul_le hd).mp he
      calc 2 ^ 23 * (den * 2 ^ e) = 2 ^ (23 + e) * den := by rw [Nat.pow_add]; ring
        _ ≤ num + 2 ^ 23 * den := by omega
  have hq : q * 2 ^ e * den = q * (den * 2 ^ e) := by ring
  have hle' : 2 * num ≤ 2 * (q * (den * 2 ^ e)) + den * 2 ^ e := by
    calc 2 * num ≤ (2 * q + 1) * (den * 2 ^ e) := hle
      _ = 2 * (q * (den * 2 ^ e)) + den * 2 ^ e := by ring
  rw [Nat.mul_assoc] at hge
  rw [hq]
  omega

/-- A result below 2^127 does not overflow. -/
theorem isFinite_roundTo {neg : Bool} {num den : Nat} (hd : 0 < den) (h : num ≤ 2 ^ 127 * 2 ^ 149 * den) :
    isFinite (roundTo neg num den) = true := by
  have hmax : magnitude 0x7F000000#32 = 2 ^ 127 * 2 ^ 149 := by decide
  refine isFinite_of_magBits_le (w := 0x7F000000#32) (by decide) ?_
  rw [magBits_roundTo]
  exact roundMag_le_magBits hd (by decide) (hmax ▸ h)

theorem value_roundTo (neg : Bool) (num den : Nat) :
    value (roundTo neg num den) =
      (if neg then -1 else 1) * (magnitude (roundTo neg num den) / 2 ^ 149) := by
  cases neg <;> simp [value, scaled, neg_div]

/-- The error of a rounded result whose magnitude is at most `B`. -/
theorem roundTo_error {neg : Bool} {num den : Nat} {B : ℚ} (hd : 0 < den) (hone : 1 ≤ B) (hmax : B ≤ 2 ^ 127)
    (h : (num : ℚ) ≤ B * 2 ^ 149 * den) :
    isFinite (roundTo neg num den) = true ∧
      |value (roundTo neg num den) - (if neg then -1 else 1) * (num / den / 2 ^ 149)| ≤ B / 2 ^ 23 := by
  have hdq : (0 : ℚ) < den := by exact_mod_cast hd
  have hnum : num ≤ 2 ^ 127 * 2 ^ 149 * den := by
    have : (num : ℚ) ≤ 2 ^ 127 * 2 ^ 149 * den := h.trans (by gcongr)
    exact_mod_cast this
  have hf := isFinite_roundTo (neg := neg) hd hnum
  refine ⟨hf, ?_⟩
  obtain ⟨hup, hlow⟩ := magnitude_roundTo_error hd hf
  set m := magnitude (roundTo neg num den) with hm
  have hup' : (2 : ℚ) ^ 24 * (m * den) ≤ 2 ^ 24 * num + (num + 2 ^ 23 * den) := by exact_mod_cast hup
  have hlow' : (2 : ℚ) ^ 24 * num ≤ 2 ^ 24 * (m * den) + (num + 2 ^ 23 * den) := by exact_mod_cast hlow
  have hsmall : (2 : ℚ) ^ 23 * den ≤ B * 2 ^ 149 * den := by
    have : (2 : ℚ) ^ 23 ≤ B * 2 ^ 149 := by nlinarith
    gcongr
  have hdist : |(m : ℚ) / 2 ^ 149 - num / den / 2 ^ 149| ≤ B / 2 ^ 23 := by
    have hsplit : (m : ℚ) / 2 ^ 149 - num / den / 2 ^ 149 = (m * den - num) / (den * 2 ^ 149) := by
      field_simp
    rw [hsplit, abs_div, abs_of_pos (by positivity : (0 : ℚ) < den * 2 ^ 149),
      div_le_div_iff₀ (by positivity) (by positivity)]
    have habs : |(m : ℚ) * den - num| * 2 ^ 24 ≤ num + 2 ^ 23 * den := by
      rw [← le_div_iff₀ (by positivity), abs_le, le_div_iff₀ (by positivity), ← neg_div,
        div_le_iff₀ (by positivity)]
      constructor
      · linarith
      · linarith
    linarith
  rw [value_roundTo, ← mul_sub, abs_mul]
  cases neg <;> simpa using hdist

/-- A product of finite values of magnitude at most `B` is finite and within `B / 2^23` of the exact product. -/
theorem fmul_error {a b : Word} {B : ℚ} (ha : isFinite a = true) (hb : isFinite b = true) (hone : 1 ≤ B)
    (hmax : B ≤ 2 ^ 127) (h : |value a * value b| ≤ B) :
    isFinite (fmul a b) = true ∧ |value (fmul a b) - value a * value b| ≤ B / 2 ^ 23 := by
  have hexact : value a * value b =
      (if (signBit a != signBit b) then -1 else 1) *
        (((magnitude a * magnitude b : Nat) : ℚ) / ((2 ^ 149 : Nat) : ℚ) / 2 ^ 149) := by
    cases hsa : signBit a <;> cases hsb : signBit b <;> simp [value, scaled, hsa, hsb] <;> ring
  have hbound : ((magnitude a * magnitude b : Nat) : ℚ) ≤ B * 2 ^ 149 * ((2 ^ 149 : Nat) : ℚ) := by
    have habs : |value a * value b| = (magnitude a * magnitude b : Nat) / 2 ^ 149 / 2 ^ 149 := by
      rw [hexact, abs_mul, abs_of_nonneg (a := ((magnitude a * magnitude b : Nat) : ℚ) / _ / _) (by positivity)]
      split
      case isTrue => rw [abs_neg, abs_one, one_mul]; norm_cast
      case isFalse => rw [abs_one, one_mul]; norm_cast
    rw [habs, div_le_iff₀ (by positivity), div_le_iff₀ (by positivity)] at h
    exact_mod_cast h
  rw [fmul_finite ha hb, hexact]
  exact roundTo_error (by positivity) hone hmax hbound

/-- A sum of finite values of magnitude at most `B` is finite and within `B / 2^23` of the exact sum. -/
theorem fadd_error {a b : Word} {B : ℚ} (ha : isFinite a = true) (hb : isFinite b = true) (hone : 1 ≤ B)
    (hmax : B ≤ 2 ^ 127) (h : |value a + value b| ≤ B) :
    isFinite (fadd a b) = true ∧ |value (fadd a b) - (value a + value b)| ≤ B / 2 ^ 23 := by
  have hsum : value a + value b = (scaled a + scaled b : Int) / 2 ^ 149 := by
    rw [value, value, Int.cast_add, add_div]
  rw [fadd_finite ha hb, hsum]
  rw [hsum] at h
  generalize scaled a + scaled b = sum at h ⊢
  split
  case isTrue hzero =>
    have hvalue : ∀ neg, isFinite (zeroOf neg) = true ∧ scaled (zeroOf neg) = 0 := by decide
    obtain ⟨hf, hs⟩ := hvalue (signBit a && signBit b)
    refine ⟨hf, ?_⟩
    rw [hzero, value, hs]
    simp
    positivity
  case isFalse =>
    have hexact : (sum : ℚ) / 2 ^ 149 =
        (if decide (sum < 0) then -1 else 1) * ((sum.natAbs : ℚ) / ((1 : Nat) : ℚ) / 2 ^ 149) := by
      rw [Nat.cast_natAbs]
      rcases lt_or_ge sum 0 with hneg | hpos
      · simp [hneg, abs_of_neg hneg, neg_div]
      · simp [not_lt.mpr hpos, abs_of_nonneg hpos]
    rw [hexact]
    refine roundTo_error Nat.one_pos hone hmax ?_
    rw [abs_div, abs_of_pos (by positivity : (0 : ℚ) < 2 ^ 149), div_le_iff₀ (by positivity)] at h
    rw [Nat.cast_natAbs]
    simpa using h

theorem fsub_error {a b : Word} {B : ℚ} (ha : isFinite a = true) (hb : isFinite b = true) (hone : 1 ≤ B)
    (hmax : B ≤ 2 ^ 127) (h : |value a - value b| ≤ B) :
    isFinite (fsub a b) = true ∧ |value (fsub a b) - (value a - value b)| ≤ B / 2 ^ 23 := by
  have := fadd_error (b := fneg b) ha (by simpa using hb) hone hmax (by simpa [← sub_eq_add_neg] using h)
  simpa [fsub, ← sub_eq_add_neg] using this

end Sys2Proof.Machine
end

section
/-! The polynomials of the coefficient evaluator (R184 to R186): over the angular cutoffs of R183 the computed stage gain and
resonance polynomial lie close to the exact ones, which are bounded there. -/

namespace Sys2Proof.Machine

/-! ## The exact polynomials -/

/-- The stage gain without rounding (R185). -/
def exactGain (w : ℚ) : ℚ :=
  9892 / 10 ^ 4 * w - 4342 / 10 ^ 4 * w ^ 2 + 1381 / 10 ^ 4 * w ^ 3 - 202 / 10 ^ 4 * w ^ 4

/-- The resonance polynomial without rounding (R186). -/
def exactResonance (w : ℚ) : ℚ :=
  10029 / 10 ^ 4 + 526 / 10 ^ 4 * w - 926 / 10 ^ 4 * w ^ 2 + 218 / 10 ^ 4 * w ^ 3

/-- The gain has its largest value near 2.87, and the rest of the bound is a sum of squares that vanish near there. -/
theorem exactGain_le (w : ℚ) : exactGain w ≤ 115685 / 10 ^ 5 := by
  unfold exactGain
  linarith [sq_nonneg (w ^ 2 - 1381 / 404 * w + 1577 / 10 ^ 3), sq_nonneg (w - 286 / 100), sq_nonneg (w - 287 / 100)]

theorem exactGain_ge {w : ℚ} (hlo : 1 ≤ w) (hhi : w ≤ 31416 / 10 ^ 4) : 1 / 10 ≤ exactGain w := by
  unfold exactGain
  nlinarith [mul_nonneg (sub_nonneg.mpr hlo) (sub_nonneg.mpr hhi), sq_nonneg (w ^ 2 - w)]

theorem exactResonance_le {w : ℚ} (hlo : 0 ≤ w) (hhi : w ≤ 31416 / 10 ^ 4) :
    exactResonance w ≤ 101098 / 10 ^ 5 := by
  have hslope : 0 ≤ 926 / 10 ^ 4 - 436 / 10 ^ 4 * (32023 / 10 ^ 5) - 218 / 10 ^ 4 * w := by linarith
  unfold exactResonance
  linarith [mul_nonneg (sq_nonneg (w - 32023 / 10 ^ 5)) hslope]

theorem exactResonance_ge {w : ℚ} (hlo : 0 ≤ w) (hhi : w ≤ 31416 / 10 ^ 4) :
    8962 / 10 ^ 4 ≤ exactResonance w := by
  have hslope : 0 ≤ 436 / 10 ^ 4 * (251157 / 10 ^ 5) - 926 / 10 ^ 4 + 218 / 10 ^ 4 * w := by linarith
  unfold exactResonance
  linarith [mul_nonneg (sq_nonneg (w - 251157 / 10 ^ 5)) hslope]

/-! ## The computed polynomials -/

theorem inCutoffRange_finite {wc : Word} (h : inCutoffRange wc) : isFinite wc = true :=
  isFinite_of_magBits_le (w := 0x40490FDB#32) (by decide) (h.2.trans (by decide))

/-- The cutoffs of R183 lie from 0 to 3.1416. -/
theorem inCutoffRange_value {wc : Word} (h : inCutoffRange wc) : 0 ≤ value wc ∧ value wc ≤ 31416 / 10 ^ 4 := by
  obtain ⟨hsign, hbits⟩ := h
  have hmax : value 0x40490FDB#32 = 13176795 / 2 ^ 22 := value_eq_of_scaled (by decide)
  have hle := abs_value_le (v := wc) (w := 0x40490FDB#32) (by decide) (hbits.trans (by decide))
  refine ⟨value_nonneg hsign, (le_abs_self _).trans (hle.trans ?_)⟩
  rw [hmax]; norm_num

/-! Errors are counted in units of 2^-23: an operation whose result is at most `B` adds `B` of them. -/

/-- `v` is finite and its value lies within `n · 2^-23` of `x`. -/
def Within (v : Word) (x n : ℚ) : Prop := isFinite v = true ∧ |value v - x| ≤ n / 2 ^ 23

theorem Within.abs_value_le {v : Word} {x n X : ℚ} (h : Within v x n) (hX : |x| + n / 2 ^ 23 ≤ X) : |value v| ≤ X := by
  have := abs_sub_abs_le_abs_sub (value v) x
  linarith [h.2]

/-- A product: each factor's error is enlarged by the other factor. -/
theorem Within.mul {a b : Word} {x y n m k X Y : ℚ} (ha : Within a x n) (hb : Within b y m)
    (hX : |x| ≤ X) (hY : |y| + m / 2 ^ 23 ≤ Y) (hone : 1 ≤ (X + n / 2 ^ 23) * Y)
    (hmax : (X + n / 2 ^ 23) * Y ≤ 2 ^ 127) (hk : (X + n / 2 ^ 23) * Y + (n * Y + X * m) ≤ k) :
    Within (fmul a b) (x * y) k := by
  have hA := ha.abs_value_le (add_le_add_left hX _)
  have hB := hb.abs_value_le hY
  have hprod : |value a * value b| ≤ (X + n / 2 ^ 23) * Y := by
    rw [abs_mul]
    exact mul_le_mul hA hB (abs_nonneg _) ((abs_nonneg _).trans hA)
  obtain ⟨hf, hround⟩ := fmul_error ha.1 hb.1 hone hmax hprod
  refine ⟨hf, ?_⟩
  have hleft : |value a * value b - x * value b| ≤ n / 2 ^ 23 * Y := by
    rw [← sub_mul, abs_mul]
    exact mul_le_mul ha.2 hB (abs_nonneg _) ((abs_nonneg _).trans ha.2)
  have hright : |x * value b - x * y| ≤ X * (m / 2 ^ 23) := by
    rw [← mul_sub, abs_mul]
    exact mul_le_mul hX hb.2 (abs_nonneg _) ((abs_nonneg _).trans hX)
  have htri := abs_sub_le (value (fmul a b)) (value a * value b) (x * y)
  have htri' := abs_sub_le (value a * value b) (x * value b) (x * y)
  linarith

/-- A sum: the errors add up. -/
theorem Within.add {a b : Word} {x y n m k B : ℚ} (ha : Within a x n) (hb : Within b y m)
    (hB : |x + y| + (n + m) / 2 ^ 23 ≤ B) (hone : 1 ≤ B) (hmax : B ≤ 2 ^ 127) (hk : B + (n + m) ≤ k) :
    Within (fadd a b) (x + y) k := by
  have hexact : |value a + value b - (x + y)| ≤ (n + m) / 2 ^ 23 := by
    rw [add_sub_add_comm, add_div]
    exact (abs_add_le _ _).trans (add_le_add ha.2 hb.2)
  have habs := abs_sub_abs_le_abs_sub (value a + value b) (x + y)
  obtain ⟨hf, hround⟩ := fadd_error ha.1 hb.1 hone hmax (by linarith)
  refine ⟨hf, ?_⟩
  have htri := abs_sub_le (value (fadd a b)) (value a + value b) (x + y)
  linarith

theorem Within.neg {v : Word} {x n : ℚ} (h : Within v x n) : Within (fneg v) (-x) n := by
  refine ⟨by simpa using h.1, ?_⟩
  rw [value_fneg, neg_sub_neg, abs_sub_comm]
  exact h.2

theorem Within.sub {a b : Word} {x y n m k B : ℚ} (ha : Within a x n) (hb : Within b y m)
    (hB : |x - y| + (n + m) / 2 ^ 23 ≤ B) (hone : 1 ≤ B) (hmax : B ≤ 2 ^ 127) (hk : B + (n + m) ≤ k) :
    Within (fsub a b) (x - y) k := by
  rw [sub_eq_add_neg] at hB ⊢
  exact ha.add hb.neg hB hone hmax hk

/-- A constant of R154 lies within half a unit of its decimal. -/
theorem within_of_scaled {v : Word} {x : ℚ} {m : ℤ} {k : ℕ} (hf : isFinite v = true)
    (hs : scaled v * 2 ^ k = m * 2 ^ 149) (h : |m / 2 ^ k - x| ≤ (1 / 2) / 2 ^ 23) : Within v x (1 / 2) :=
  ⟨hf, by rwa [value_eq_of_scaled hs]⟩

theorem within_K_G1 : Within K_G1 (9892 / 10 ^ 4) (1 / 2) :=
  within_of_scaled (m := 16596022) (k := 24) (by decide) (by decide) (by norm_num [abs_le])
theorem within_K_G2 : Within K_G2 (4342 / 10 ^ 4) (1 / 2) :=
  within_of_scaled (m := 14569334) (k := 25) (by decide) (by decide) (by norm_num [abs_le])
theorem within_K_G3 : Within K_G3 (1381 / 10 ^ 4) (1 / 2) :=
  within_of_scaled (m := 9267734) (k := 26) (by decide) (by decide) (by norm_num [abs_le])
theorem within_K_G4 : Within K_G4 (202 / 10 ^ 4) (1 / 2) :=
  within_of_scaled (m := 10844792) (k := 29) (by decide) (by decide) (by norm_num [abs_le])
theorem within_K_R0 : Within K_R0 (10029 / 10 ^ 4) (1 / 2) :=
  within_of_scaled (m := 8412935) (k := 23) (by decide) (by decide) (by norm_num [abs_le])
theorem within_K_R1 : Within K_R1 (526 / 10 ^ 4) (1 / 2) :=
  within_of_scaled (m := 14119705) (k := 28) (by decide) (by decide) (by norm_num [abs_le])
theorem within_K_R2 : Within K_R2 (926 / 10 ^ 4) (1 / 2) :=
  within_of_scaled (m := 12428562) (k := 27) (by decide) (by decide) (by norm_num [abs_le])
theorem within_K_R3 : Within K_R3 (218 / 10 ^ 4) (1 / 2) :=
  within_of_scaled (m := 11703786) (k := 29) (by decide) (by decide) (by norm_num [abs_le])

/-! ## The powers of the cutoff -/

theorem within_cutoff {wc : Word} (h : inCutoffRange wc) : Within wc (value wc) 0 :=
  ⟨inCutoffRange_finite h, by simp⟩

theorem cutoff_pow_abs {wc : Word} (h : inCutoffRange wc) (k : ℕ) : |value wc ^ k| ≤ (31416 / 10 ^ 4) ^ k := by
  obtain ⟨hlo, hhi⟩ := inCutoffRange_value h
  rw [abs_of_nonneg (by positivity)]
  exact pow_le_pow_left₀ hlo hhi k

/-- A power of the cutoff, from the power before it. -/
theorem within_power_succ {v wc : Word} {k : ℕ} {n m : ℚ} (h : inCutoffRange wc) (hv : Within v (value wc ^ k) n)
    (hone : 1 ≤ ((31416 / 10 ^ 4) ^ k + n / 2 ^ 23) * (31416 / 10 ^ 4))
    (hmax : ((31416 / 10 ^ 4) ^ k + n / 2 ^ 23) * (31416 / 10 ^ 4) ≤ 2 ^ 127)
    (hm : ((31416 / 10 ^ 4) ^ k + n / 2 ^ 23) * (31416 / 10 ^ 4) + n * (31416 / 10 ^ 4) ≤ m) :
    Within (fmul v wc) (value wc ^ (k + 1)) m := by
  rw [pow_succ]
  have hcut := cutoff_pow_abs h 1
  exact hv.mul (within_cutoff h) (cutoff_pow_abs h k) (by simpa using hcut) hone hmax (by linarith)

theorem within_power2 {wc : Word} (h : inCutoffRange wc) : Within (power2 wc) (value wc ^ 2) 10 :=
  within_power_succ (k := 1) (n := 0) h (by simpa using within_cutoff h) (by norm_num) (by norm_num) (by norm_num)

theorem within_power3 {wc : Word} (h : inCutoffRange wc) : Within (power3 wc) (value wc ^ 3) 63 :=
  within_power_succ h (within_power2 h) (by norm_num) (by norm_num) (by norm_num)

theorem within_power4 {wc : Word} (h : inCutoffRange wc) : Within (power4 wc) (value wc ^ 4) 296 :=
  within_power_succ h (within_power3 h) (by norm_num) (by norm_num) (by norm_num)

/-! ## The computed polynomials -/

/-- A term of a polynomial: a constant times a power of the cutoff. -/
theorem within_term {K v wc : Word} {c n k X Y : ℚ} {d : ℕ} (h : inCutoffRange wc) (hK : Within K c (1 / 2))
    (hv : Within v (value wc ^ d) n) (hc : |c| ≤ X) (hY : (31416 / 10 ^ 4) ^ d + n / 2 ^ 23 ≤ Y)
    (hone : 1 ≤ (X + 1 / 2 / 2 ^ 23) * Y) (hmax : (X + 1 / 2 / 2 ^ 23) * Y ≤ 2 ^ 127)
    (hk : (X + 1 / 2 / 2 ^ 23) * Y + (1 / 2 * Y + X * n) ≤ k) : Within (fmul K v) (c * value wc ^ d) k :=
  hK.mul hv hc ((add_le_add_left (cutoff_pow_abs h d) _).trans hY) hone hmax hk

/-- Bounds of the powers of a cutoff, as the sums below need them. -/
theorem cutoff_powers {wc : Word} (h : inCutoffRange wc) :
    (0 ≤ value wc ∧ value wc ≤ 3.1416) ∧ (0 ≤ value wc ^ 2 ∧ value wc ^ 2 ≤ 9.87) ∧
    (0 ≤ value wc ^ 3 ∧ value wc ^ 3 ≤ 31.01) ∧ (0 ≤ value wc ^ 4 ∧ value wc ^ 4 ≤ 97.42) := by
  have hpow := cutoff_pow_abs h
  have hnonneg := (inCutoffRange_value h).1
  have hle : ∀ k, 0 ≤ value wc ^ k ∧ value wc ^ k ≤ (31416 / 10 ^ 4) ^ k := fun k =>
    ⟨by positivity, (le_abs_self _).trans (hpow k)⟩
  refine ⟨⟨hnonneg, ?_⟩, ⟨(hle 2).1, ?_⟩, ⟨(hle 3).1, ?_⟩, (hle 4).1, ?_⟩
  · exact (inCutoffRange_value h).2.trans (by norm_num)
  · exact (hle 2).2.trans (by norm_num)
  · exact (hle 3).2.trans (by norm_num)
  · exact (hle 4).2.trans (by norm_num)

theorem within_gainTerm1 {wc : Word} (h : inCutoffRange wc) :
    Within (fmul K_G1 wc) (9892 / 10 ^ 4 * value wc) 7 := by
  simpa using within_term (d := 1) (X := 1) (Y := 4) h within_K_G1 (by simpa using within_cutoff h)
    (by norm_num [abs_le]) (by norm_num) (by norm_num) (by norm_num) (by norm_num)

theorem within_gainTerm2 {wc : Word} (h : inCutoffRange wc) :
    Within (fmul K_G2 (power2 wc)) (4342 / 10 ^ 4 * value wc ^ 2) 20 :=
  within_term (X := 1 / 2) (Y := 10) h within_K_G2 (within_power2 h) (by norm_num [abs_le])
    (by norm_num) (by norm_num) (by norm_num) (by norm_num)

theorem within_gainTerm3 {wc : Word} (h : inCutoffRange wc) :
    Within (fmul K_G3 (power3 wc)) (1381 / 10 ^ 4 * value wc ^ 3) 32 :=
  within_term (X := 14 / 100) (Y := 32) h within_K_G3 (within_power3 h) (by norm_num [abs_le])
    (by norm_num) (by norm_num) (by norm_num) (by norm_num)

theorem within_gainTerm4 {wc : Word} (h : inCutoffRange wc) :
    Within (fmul K_G4 (power4 wc)) (202 / 10 ^ 4 * value wc ^ 4) 62 :=
  within_term (X := 3 / 100) (Y := 98) h within_K_G4 (within_power4 h) (by norm_num [abs_le])
    (by norm_num) (by norm_num) (by norm_num) (by norm_num)

/-- The first difference of the stage gain. -/
theorem within_gainSum2 {wc : Word} (h : inCutoffRange wc) :
    Within (fsub (fmul K_G1 wc) (fmul K_G2 (power2 wc)))
      (9892 / 10 ^ 4 * value wc - 4342 / 10 ^ 4 * value wc ^ 2) 32 := by
  obtain ⟨⟨hlo1, hhi1⟩, ⟨hlo2, hhi2⟩, -, -⟩ := cutoff_powers h
  exact (within_gainTerm1 h).sub (B := 5) (within_gainTerm2 h)
    (by rw [← le_sub_iff_add_le, abs_le]; constructor <;> linarith) (by norm_num) (by norm_num) (by norm_num)

/-- The first three terms of the stage gain. -/
theorem within_gainSum3 {wc : Word} (h : inCutoffRange wc) :
    Within (fadd (fsub (fmul K_G1 wc) (fmul K_G2 (power2 wc))) (fmul K_G3 (power3 wc)))
      (9892 / 10 ^ 4 * value wc - 4342 / 10 ^ 4 * value wc ^ 2 + 1381 / 10 ^ 4 * value wc ^ 3) 74 := by
  obtain ⟨⟨hlo1, hhi1⟩, ⟨hlo2, hhi2⟩, ⟨hlo3, hhi3⟩, -⟩ := cutoff_powers h
  exact (within_gainSum2 h).add (B := 10) (within_gainTerm3 h)
    (by rw [← le_sub_iff_add_le, abs_le]; constructor <;> linarith) (by norm_num) (by norm_num) (by norm_num)

theorem within_stageGain {wc : Word} (h : inCutoffRange wc) : Within (stageGain wc) (exactGain (value wc)) 160 := by
  obtain ⟨⟨hlo1, hhi1⟩, ⟨hlo2, hhi2⟩, ⟨hlo3, hhi3⟩, hlo4, hhi4⟩ := cutoff_powers h
  exact (within_gainSum3 h).sub (B := 10) (within_gainTerm4 h)
    (by rw [← le_sub_iff_add_le, abs_le]; constructor <;> linarith) (by norm_num) (by norm_num) (by norm_num)

theorem within_resonancePoly {wc : Word} (h : inCutoffRange wc) :
    Within (resonancePoly wc) (exactResonance (value wc)) 60 := by
  obtain ⟨⟨hlo1, hhi1⟩, ⟨hlo2, hhi2⟩, ⟨hlo3, hhi3⟩, -⟩ := cutoff_powers h
  have term1 : Within (fmul K_R1 wc) (526 / 10 ^ 4 * value wc) 4 := by
    simpa using within_term (d := 1) (X := 1 / 3) (Y := 4) h within_K_R1 (by simpa using within_cutoff h)
      (by norm_num [abs_le]) (by norm_num) (by norm_num) (by norm_num) (by norm_num)
  have term2 : Within (fmul K_R2 (power2 wc)) (926 / 10 ^ 4 * value wc ^ 2) 8 :=
    within_term (X := 1 / 10) (Y := 10) h within_K_R2 (within_power2 h) (by norm_num [abs_le])
      (by norm_num) (by norm_num) (by norm_num) (by norm_num)
  have term3 : Within (fmul K_R3 (power3 wc)) (218 / 10 ^ 4 * value wc ^ 3) 20 :=
    within_term (X := 1 / 32) (Y := 33) h within_K_R3 (within_power3 h) (by norm_num [abs_le])
      (by norm_num) (by norm_num) (by norm_num) (by norm_num)
  have sum1 := within_K_R0.add (B := 2) (k := 7) term1 (by rw [← le_sub_iff_add_le, abs_le]; constructor <;> linarith)
    (by norm_num) (by norm_num) (by norm_num)
  have sum2 := sum1.sub (B := 2) (k := 17) term2 (by rw [← le_sub_iff_add_le, abs_le]; constructor <;> linarith)
    (by norm_num) (by norm_num) (by norm_num)
  exact sum2.add (B := 2) term3 (by rw [← le_sub_iff_add_le, abs_le]; constructor <;> linarith)
    (by norm_num) (by norm_num) (by norm_num)

end Sys2Proof.Machine
end

section
/-! The ranges of R38: what the clamps of R181 and R182 let through, the angular cutoff of R183, and every coefficient a
successful SETP latches. -/

namespace Sys2Proof.Machine

/-! ## The order of values -/

theorem fgt_eq (a b : Word) : fgt a b = flt b a := rfl

theorem orderKey_le_of_not_flt {a b : Word} (ha : isNaN a = false) (hb : isNaN b = false) (h : flt a b = false) :
    orderKey b ≤ orderKey a := by
  simpa [flt, ha, hb] using h

theorem orderKey_of_nonneg {v : Word} (h : signBit v = false) : orderKey v = magBits v := by
  simp [orderKey, h]

/-- At or above zero in the order of values: a value that is not negative, -0 among them. -/
theorem nonneg_of_orderKey {v : Word} (h : 0 ≤ orderKey v) : 0 ≤ scaled v ∧ orderKey v = magBits v := by
  cases hs : signBit v
  · exact ⟨scaled_eq_magnitude hs ▸ Int.natCast_nonneg _, orderKey_of_nonneg hs⟩
  · have hkey : orderKey v = -magBits v := by simp [orderKey, hs]
    have hzero : magBits v = 0 := by omega
    rw [scaled_eq_neg_magnitude hs, (magnitude_zero_iff v).mpr hzero, hkey, hzero]
    simp

theorem signBit_of_orderKey_pos {v : Word} (h : 0 < orderKey v) : signBit v = false := by
  cases hs : signBit v
  · rfl
  · rw [orderKey, hs, if_pos rfl] at h; omega

/-! ## The clamps -/

/-- A valid sample rate is a finite value above zero (R258). -/
theorem sampleRateValid_iff (fs : Word) :
    sampleRateValid fs = true ↔ isFinite fs = true ∧ signBit fs = false ∧ 0 < magBits fs := by
  rw [sampleRateValid, Bool.and_eq_true, fgt_posZero_iff]
  exact and_congr_right fun hf => and_iff_right (isNaN_of_finite hf)

theorem isZero_of_sampleRateValid {fs : Word} (h : sampleRateValid fs = true) : isZero fs = false := by
  obtain ⟨-, -, hpos⟩ := (sampleRateValid_iff fs).mp h
  rw [← Bool.not_eq_true, isZero_iff]; omega

/-- The upper cutoff bound 0.49·fs is at most half the sample rate: rounding cannot add the hundredth that is missing, and
a whole number of units below half a unit more than the half is at most the half. -/
theorem cutoffBound_le_half {fs : Word} (h : sampleRateValid fs = true) :
    isFinite (cutoffBound fs) = true ∧ signBit (cutoffBound fs) = false ∧
      2 * magnitude (cutoffBound fs) ≤ magnitude fs := by
  obtain ⟨hf, hsign, -⟩ := (sampleRateValid_iff fs).mp h
  have hnyq : isFinite K_NYQ = true ∧ magBits K_NYQ ≤ magBits K_ONE ∧ magnitude K_NYQ = 16441672 * 2 ^ 124 := by decide
  obtain ⟨hnf, hnle, hnm⟩ := hnyq
  have hfin : isFinite (cutoffBound fs) = true := isFinite_of_magBits_le hf (magBits_fmul_le_right hf hnle)
  refine ⟨hfin, signBit_fmul_nonneg hnf hf (by decide) hsign, ?_⟩
  rw [cutoffBound, fmul_finite hnf hf] at hfin ⊢
  have herr := (magnitude_roundTo_error (by positivity) hfin).1
  rw [hnm] at herr ⊢
  omega

/-- The clamped cutoff is not negative and at most the upper bound (R181). -/
theorem clampCutoff_range {eps fs cut : Word} (heps : Config.epsHzAdmissible eps = true)
    (hfs : sampleRateValid fs = true) (hcut : isNaN cut = false) :
    signBit (clampCutoff eps fs cut) = false ∧ magBits (clampCutoff eps fs cut) ≤ magBits (cutoffBound fs) := by
  obtain ⟨hhf, hhs, -⟩ := cutoffBound_le_half hfs
  obtain ⟨hef, hepos⟩ := (Config.epsHzAdmissible_iff eps).mp heps
  obtain ⟨hes, hemag⟩ := (scaled_pos_iff eps).mp hepos
  have hraised : isNaN (cutoffRaised eps cut) = false ∧ signBit (cutoffRaised eps cut) = false := by
    unfold cutoffRaised
    split
    case isTrue => exact ⟨isNaN_of_finite hef, hes⟩
    case isFalse hlt =>
      have hle := orderKey_le_of_not_flt hcut (isNaN_of_finite hef) (by simpa using hlt)
      rw [orderKey_of_nonneg hes] at hle
      exact ⟨hcut, signBit_of_orderKey_pos (by omega)⟩
  obtain ⟨hnan, hsign⟩ := hraised
  unfold clampCutoff
  split
  case isTrue => exact ⟨hhs, le_rfl⟩
  case isFalse hgt =>
    have hle := orderKey_le_of_not_flt (isNaN_of_finite hhf) hnan (by simpa [fgt_eq] using hgt)
    rw [orderKey_of_nonneg hsign, orderKey_of_nonneg hhs] at hle
    exact ⟨hsign, by omega⟩

/-- The clamped resonance lies from 0 to 1; -0 is left as it is (R182). -/
theorem clampResonance_range {res : Word} (hres : isNaN res = false) :
    0 ≤ scaled (clampResonance res) ∧ magBits (clampResonance res) ≤ magBits K_ONE := by
  have hconst : isNaN K_RMIN = false ∧ orderKey K_RMIN = 0 ∧ isNaN K_RMAX = false ∧ orderKey K_RMAX = magBits K_ONE ∧
      0 ≤ scaled K_RMAX ∧ K_RMAX = K_ONE := by decide
  obtain ⟨hminNaN, hminKey, hmaxNaN, hmaxKey, hmaxPos, hmaxOne⟩ := hconst
  have hraised : isNaN (resonanceRaised res) = false ∧ 0 ≤ orderKey (resonanceRaised res) := by
    unfold resonanceRaised
    split
    case isTrue => exact ⟨hminNaN, hminKey.ge⟩
    case isFalse hlt => exact ⟨hres, hminKey ▸ orderKey_le_of_not_flt hres hminNaN (by simpa using hlt)⟩
  obtain ⟨hnan, hkey⟩ := hraised
  unfold clampResonance
  split
  case isTrue => exact ⟨hmaxPos, hmaxOne ▸ le_rfl⟩
  case isFalse hgt =>
    have hle := orderKey_le_of_not_flt hmaxNaN hnan (by simpa [fgt_eq] using hgt)
    obtain ⟨hpos, hbits⟩ := nonneg_of_orderKey hkey
    rw [hbits, hmaxKey] at hle
    exact ⟨hpos, by omega⟩

/-- The angular cutoff of a clamped cutoff lies in the range of R183. -/
theorem angularCutoff_range {eps fs cut : Word} (heps : Config.epsHzAdmissible eps = true)
    (hfs : sampleRateValid fs = true) (hcut : isNaN cut = false) :
    inCutoffRange (angularCutoff (clampCutoff eps fs cut) fs) := by
  obtain ⟨hhf, -, hhalf⟩ := cutoffBound_le_half hfs
  obtain ⟨hsign, hle⟩ := clampCutoff_range heps hfs hcut
  obtain ⟨hf, hfsign, -⟩ := (sampleRateValid_iff fs).mp hfs
  have hz := isZero_of_sampleRateValid hfs
  have hfin := isFinite_of_magBits_le hhf hle
  have hmag := magnitude_mono hle
  have hconst : magnitude 0x3F000000#32 = 2 ^ 148 ∧ isFinite K_2PI = true ∧ signBit K_2PI = false ∧
      magnitude K_2PI = 2 * magnitude 0x40490FDB#32 ∧ magBits 0x40490FDB#32 = 0x40490FDB := by decide
  obtain ⟨hhm, hpf, hps, hpm, hbits⟩ := hconst
  have hratio : magBits (fdiv (clampCutoff eps fs cut) fs) ≤ magBits 0x3F000000#32 := by
    apply magBits_fdiv_le hfin hf hz (by decide)
    rw [hhm]; omega
  have hrf := isFinite_of_magBits_le (by decide) hratio
  unfold angularCutoff
  constructor
  · rw [signBit_fmul hpf hrf, signBit_fdiv hfin hf hz, hsign, hfsign, hps]; rfl
  · rw [← hbits]
    apply magBits_fmul_le hpf hrf (by decide)
    have := magnitude_mono hratio
    rw [hpm, hhm] at *
    nlinarith

/-! ## The stage gain and the resonance polynomial -/

/-- Up to 1 the powers of the cutoff decrease, and so do the coefficients: every difference of the stage gain takes a
smaller term from a larger, and no sum is a negative zero. -/
theorem signBit_stageGain_of_le_one {wc : Word} (h : inCutoffRange wc) (hle : magBits wc ≤ magBits K_ONE) :
    signBit (stageGain wc) = false := by
  have hf := inCutoffRange_finite h
  have hK : isFinite K_G1 = true ∧ isFinite K_G2 = true ∧ isFinite K_G3 = true ∧ isFinite K_G4 = true ∧
      signBit K_G1 = false ∧ signBit K_G2 = false ∧ signBit K_G3 = false ∧ signBit K_G4 = false ∧
      magBits K_G2 ≤ magBits K_G1 ∧ magBits K_G4 ≤ magBits K_G3 := by decide
  obtain ⟨hK1, hK2, hK3, hK4, hs1, hs2, hs3, hs4, hleK12, hleK34⟩ := hK
  have hp2 := (within_power2 h).1
  have hp3 := (within_power3 h).1
  have hsp2 := signBit_fmul_nonneg hf hf h.1 h.1
  have hsp3 := signBit_fmul_nonneg hp2 hf hsp2 h.1
  have hsp4 := signBit_fmul_nonneg hp3 hf hsp3 h.1
  have ht1 := (within_gainTerm1 h).1
  have ht2 := (within_gainTerm2 h).1
  have ht3 := (within_gainTerm3 h).1
  have ht4 := (within_gainTerm4 h).1
  have hst2 := signBit_fmul_nonneg hK2 hp2 hs2 hsp2
  have hle12 := magBits_fmul_mono hK1 hf hleK12 (magBits_fmul_le_left hf hle)
  have hsum2 := signBit_fsub_of_le ht1 ht2 (signBit_fmul_nonneg hK1 hf hs1 h.1) hst2 hle12
  obtain ⟨hsum3, hge3⟩ := fadd_nonneg (within_gainSum2 h).1 ht3 hsum2 (signBit_fmul_nonneg hK3 hp3 hs3 hsp3)
  have hle34 := magBits_fmul_mono hK3 hp3 hleK34 (magBits_fmul_le_left hp3 hle)
  exact signBit_fsub_of_le (within_gainSum3 h).1 ht4 hsum3
    (signBit_fmul_nonneg hK4 (within_power4 h).1 hs4 hsp4) (hle34.trans hge3)

/-- Above 1 the exact gain is far above the error. -/
theorem signBit_stageGain {wc : Word} (h : inCutoffRange wc) : signBit (stageGain wc) = false := by
  rcases le_total (magBits wc) (magBits K_ONE) with hle | hge
  · exact signBit_stageGain_of_le_one h hle
  · have hone : value K_ONE = 1 := by simpa using value_eq_of_scaled (v := K_ONE) (m := 1) (k := 0) (by decide)
    have hlo : 1 ≤ value wc := by
      have := abs_value_le (v := K_ONE) h.1 hge
      rwa [hone, abs_one] at this
    have hexact := exactGain_ge hlo (inCutoffRange_value h).2
    obtain ⟨-, herr⟩ := within_stageGain h
    apply signBit_of_value_pos
    linarith [(abs_le.mp herr).1]

theorem value_stageGain_le {wc : Word} (h : inCutoffRange wc) : value (stageGain wc) ≤ 11569 / 10 ^ 4 := by
  obtain ⟨-, herr⟩ := within_stageGain h
  linarith [(abs_le.mp herr).2, exactGain_le (value wc)]

/-- The resonance polynomial lies from 0.896 to 1.011 (R186). -/
theorem resonancePoly_range {wc : Word} (h : inCutoffRange wc) :
    896 / 1000 ≤ value (resonancePoly wc) ∧ value (resonancePoly wc) ≤ 1011 / 1000 := by
  obtain ⟨hlo, hhi⟩ := inCutoffRange_value h
  obtain ⟨-, herr⟩ := within_resonancePoly h
  have hle := exactResonance_le hlo hhi
  have hge := exactResonance_ge hlo hhi
  constructor <;> linarith [(abs_le.mp herr).1, (abs_le.mp herr).2]

/-! ## The coefficients -/

/-- A gain the stage gain polynomial can give. -/
structure GainRange (g : Word) : Prop where
  finite : isFinite g = true
  sign : signBit g = false
  le : value g ≤ 11569 / 10 ^ 4

theorem stageGain_gainRange {wc : Word} (h : inCutoffRange wc) : GainRange (stageGain wc) :=
  ⟨(within_stageGain h).1, signBit_stageGain h, value_stageGain_le h⟩

theorem GainRange.range {g : Word} (h : GainRange g) : inMillis g 0 1157 := by
  rw [inMillis_iff]
  refine ⟨h.finite, by simpa using value_nonneg h.sign, h.le.trans (by norm_num)⟩

/-- Quotients by K_DIV: a bound of the dividend's magnitude bounds the quotient's. -/
theorem inMillis_fdiv_K_DIV {a c : Word} {hi : Int} (ha : isFinite a = true) (hs : signBit a = false)
    (hc : isFinite c = true) (hsc : signBit c = false) (h : magnitude a * 2 ^ 149 ≤ magnitude c * magnitude K_DIV)
    (hhi : value c ≤ hi / 1000) : inMillis (fdiv a K_DIV) 0 hi ∧ signBit (fdiv a K_DIV) = false := by
  have hK : isFinite K_DIV = true ∧ isZero K_DIV = false ∧ signBit K_DIV = false := by decide
  obtain ⟨hKf, hKz, hKs⟩ := hK
  have hle := magBits_fdiv_le ha hKf hKz hc h
  have hsign : signBit (fdiv a K_DIV) = false := by rw [signBit_fdiv ha hKf hKz, hs, hKs]; rfl
  rw [inMillis_iff]
  refine ⟨⟨isFinite_of_magBits_le hc hle, by simpa using value_nonneg hsign, ?_⟩, hsign⟩
  exact (le_abs_self _).trans ((abs_value_le hsc hle).trans hhi)

/-- The magnitude of a gain, in units of 2^-149. -/
theorem GainRange.magnitude_le {g : Word} (h : GainRange g) : 10 ^ 4 * magnitude g ≤ 11569 * 2 ^ 149 := by
  have := h.le
  rw [value, scaled_eq_magnitude h.sign, div_le_div_iff₀ (by positivity) (by positivity)] at this
  have hnat : (magnitude g : ℚ) * 10 ^ 4 ≤ 11569 * 2 ^ 149 := by simpa using this
  rw [Nat.mul_comm]
  exact_mod_cast hnat

theorem GainRange.coefB0_range {g : Word} (h : GainRange g) :
    inMillis (coefB0 g) 0 890 ∧ signBit (coefB0 g) = false := by
  have hmag := h.magnitude_le
  have hbound : magnitude 0x3F63D3C3#32 = 14930883 * 2 ^ 125 ∧ magnitude K_DIV = 10905190 * 2 ^ 126 := by decide
  have hval : value 0x3F63D3C3#32 = 14930883 / 2 ^ 24 := value_eq_of_scaled (by decide)
  exact inMillis_fdiv_K_DIV (c := 0x3F63D3C3#32) h.finite h.sign (by decide) (by decide)
    (by rw [hbound.1, hbound.2]; omega) (by rw [hval]; norm_num)

theorem GainRange.coefB1_range {g : Word} (h : GainRange g) :
    inMillis (coefB1 g) 0 267 ∧ signBit (coefB1 g) = false := by
  have hK : isFinite K_SKEW = true ∧ signBit K_SKEW = false := by decide
  obtain ⟨hKf, hKs⟩ := hK
  have hmag := h.magnitude_le
  have hskew : magnitude K_SKEW = 10066330 * 2 ^ 124 ∧ magnitude 0x3EB1B4DF#32 = 11646175 * 2 ^ 124 := by decide
  have hle : magBits (fmul g K_SKEW) ≤ magBits 0x3EB1B4DF#32 := by
    apply magBits_fmul_le h.finite hKf (by decide)
    rw [hskew.1, hskew.2]; omega
  have hbound : magnitude 0x3EB1B4DF#32 * 2 ^ 149 ≤ magnitude 0x3E88B2FF#32 * magnitude K_DIV := by decide
  have hval : value 0x3E88B2FF#32 = 8958719 / 2 ^ 25 := value_eq_of_scaled (by decide)
  exact inMillis_fdiv_K_DIV (c := 0x3E88B2FF#32) (isFinite_of_magBits_le (by decide) hle)
    (signBit_fmul_nonneg h.finite hKf h.sign hKs) (by decide) (by decide)
    ((Nat.mul_le_mul_right _ (magnitude_mono hle)).trans hbound) (by rw [hval]; norm_num)

theorem GainRange.coefA1_range {g : Word} (h : GainRange g) : inMillis (coefA1 g) (-157) 1000 := by
  have hK : isFinite K_ONE = true ∧ scaled K_ONE = 2 ^ 149 ∧ magnitude K_ONE = 2 ^ 149 ∧ value K_ONE = 1 :=
    ⟨by decide, by decide, by decide, by simpa using value_eq_of_scaled (v := K_ONE) (m := 1) (k := 0) (by decide)⟩
  obtain ⟨hKf, hKs, hKm, hKv⟩ := hK
  have hnonneg := value_nonneg h.sign
  have hle := h.le
  obtain ⟨hf, herr⟩ := fsub_error (a := K_ONE) (b := g) (B := 1) hKf h.finite le_rfl (by norm_num)
    (by rw [hKv, abs_le]; constructor <;> linarith)
  rw [hKv] at herr
  have hupper : magBits (coefA1 g) ≤ magBits K_ONE := by
    unfold coefA1
    refine magBits_fadd_le hKf (by simpa using h.finite) hKf ?_
    have hmag := h.magnitude_le
    rw [scaled_fneg, scaled_eq_magnitude h.sign, hKs, hKm, abs_le]
    constructor <;> omega
  have habs := abs_value_le (w := K_ONE) (by decide) hupper
  rw [hKv, abs_le] at habs
  rw [inMillis_iff]
  refine ⟨hf, ?_, by simpa using habs.2⟩
  have hlow := (abs_le.mp herr).1
  unfold coefA1
  norm_num at hlow ⊢
  linarith

/-- A product with a value that is not below zero has no value below zero. -/
theorem scaled_fmul_nonneg {a b : Word} (ha : isFinite a = true) (hb : isFinite b = true) (hpos : 0 ≤ scaled a)
    (hsb : signBit b = false) : 0 ≤ scaled (fmul a b) := by
  cases hs : signBit a
  · rw [scaled_eq_magnitude (signBit_fmul_nonneg ha hb hs hsb)]; exact Int.natCast_nonneg _
  · have hzero : magnitude a = 0 := by rw [scaled_eq_neg_magnitude hs] at hpos; omega
    have hbits : magBits (fmul a b) = 0 := by rw [magBits_fmul ha hb, hzero, Nat.zero_mul]; decide
    have := scaled_natAbs (fmul a b)
    rw [(magnitude_zero_iff _).mpr hbits] at this
    omega

/-- The resonance gain is at most the resonance polynomial. -/
theorem resonanceGain_range {ares wc : Word} (h : inCutoffRange wc) (hpos : 0 ≤ scaled ares)
    (hle : magBits ares ≤ magBits K_ONE) : inMillis (resonanceGain ares wc) 0 1011 := by
  obtain ⟨hlo, hhi⟩ := resonancePoly_range h
  have hf := (within_resonancePoly h).1
  have hsign : signBit (resonancePoly wc) = false := signBit_of_value_pos (by linarith)
  have hres : isFinite ares = true := isFinite_of_magBits_le (by decide) hle
  have hbits := magBits_fmul_le_right hf hle
  rw [inMillis_iff]
  refine ⟨isFinite_of_magBits_le hf hbits, ?_, ?_⟩
  · simpa [resonanceGain] using (value_nonneg_iff _).mpr (scaled_fmul_nonneg hres hf hpos hsign)
  · exact (le_abs_self _).trans ((abs_value_le hsign hbits).trans (by simpa using hhi))

/-- The coefficients SETP latches are those of R38, and so is the stage gain they come from. -/
theorem publish_cpe_coeffs {eps : Word} {s : State} (heps : Config.epsHzAdmissible eps = true)
    (hfs : sampleRateValid s.afs = true) (hvalid : setpOperandsValid s.pCut s.pRes s.pWt = true) :
    CoeffBounds (publish (cpe eps s.afs s.pCut s.pRes) s) ∧
      inMillis (stageGain (angularCutoff (cpe eps s.afs s.pCut s.pRes).acut s.afs)) 0 1157 := by
  simp only [setpOperandsValid, Bool.and_eq_true, Bool.not_eq_true'] at hvalid
  obtain ⟨⟨hcut, hres⟩, -⟩ := hvalid
  have hwc := angularCutoff_range heps hfs hcut
  have hgain := stageGain_gainRange hwc
  obtain ⟨hpos, hle⟩ := clampResonance_range hres
  obtain ⟨hb0, hb0s⟩ := hgain.coefB0_range
  obtain ⟨hb1, hb1s⟩ := hgain.coefB1_range
  exact ⟨⟨hb0, hb1, hgain.coefA1_range, resonanceGain_range hwc hpos hle, hb0s, hb1s⟩, hgain.range⟩

/-- Settles O52: the clamps bring every operand into the range where the polynomials are bounded. -/
theorem setpCoefficientsBounded : Obligations.SetpCoefficientsBounded := by
  intro s hinit hfs hvalid
  have hexec : exec .setp s = .next (publish (cpe Config.epsHz s.afs s.pCut s.pRes) s) := by
    rw [exec_setp, setParameters, hinit, hvalid]; rfl
  obtain ⟨hcoeffs, hgain⟩ := publish_cpe_coeffs Config.epsHzAdmissible_epsHz hfs hvalid
  exact ⟨_, hexec, hgain, hcoeffs.b0_range, hcoeffs.b1_range, hcoeffs.a1_range, hcoeffs.rg_range⟩

end Sys2Proof.Machine
end

section
/-! What a command and a step can do to the state, said once as two inductive relations; the invariants and the statements
about who writes what are case analyses over them. -/

namespace Sys2Proof.Machine

/-! ## Commands -/

theorem decode_encode (i : Instr) : decode (encode i) = .command i := by cases i <;> decide

@[simp] theorem encode_inj {i j : Instr} : encode i = encode j ↔ i = j := by
  constructor
  · intro h
    have := decode_encode i
    rw [h, decode_encode j] at this
    cases this; rfl
  · rintro rfl; rfl

/-- A word is the concatenation of its two fields (R120). -/
theorem rsvField_append_opField (w : Word) : rsvField w ++ opField w = w := by
  have := BitVec.extractLsb'_append_extractLsb'_eq_extractLsb' (x := w) (start₁ := 0) (len₁ := 4) (start₂ := 4)
    (len₂ := 28) rfl
  simpa [rsvField, opField] using this

theorem eq_opcodeOf_of_decodeOp {op : BitVec 4} {i : Instr} (h : decodeOp op = some i) : op = opcodeOf i := by
  revert op; cases i <;> decide

/-- Only its encoding decodes to a command (R123, R125). -/
theorem eq_encode_of_decode {w : Word} {i : Instr} (h : decode w = .command i) : w = encode i := by
  unfold decode at h
  split at h
  case isTrue => cases h
  case isFalse hrsv =>
    split at h
    case h_2 => cases h
    case h_1 j hop =>
      cases h
      rw [← rsvField_append_opField w, eq_opcodeOf_of_decodeOp hop, not_not.mp hrsv]
      rfl

theorem reportedCause_init (s : State) :
    reportedCause (encode .init) s = if sampleRateValid s.pFs then none else some .eCfg := rfl

theorem reportedCause_setp (s : State) :
    reportedCause (encode .setp) s =
      if !s.status.inited then some .eSeq
      else if setpOperandsValid s.pCut s.pRes s.pWt then none
      else some .eParam := rfl

/-- What running the word `w` in state `s` can leave: a rejection that only reports its cause, or the effect of one accepted
command. The rejection of INIT stands apart, for it drops the mode too. -/
inductive CommandEffect (w : Word) (s : State) : State → Prop
  | rejected (c : Cause) (hc : reportedCause w s = some c) (hcfg : c ≠ .eCfg) (hnf : c ≠ .nfOut) :
      CommandEffect w s (reject c w s)
  | rateRefused (hw : w = encode .init) (hfs : sampleRateValid s.pFs = false) : CommandEffect w s (refuseRate s)
  | nop (hw : w = encode .nop) : CommandEffect w s s
  | started (hw : w = encode .init) (hfs : sampleRateValid s.pFs = true) : CommandEffect w s (startStream s)
  | published (hw : w = encode .setp) (hinit : s.status.inited = true)
      (hvalid : setpOperandsValid s.pCut s.pRes s.pWt = true) :
      CommandEffect w s (publish (cpe Config.epsHz s.afs s.pCut s.pRes) s)
  | processed (hw : w = encode .proc) (hready : ready s.status = true) (hin : isNaN s.pIn = false) :
      CommandEffect w s (commitTaps (computeTaps Config.compGain Config.tanh s s.pIn)
        (mixTaps (computeTaps Config.compGain Config.tanh s s.pIn) s.wt) s)
  | cleared (hw : w = encode .reset) : CommandEffect w s (zeroFilterMemory s)

theorem exec_effect {i : Instr} {s t : State} (h : exec i s = .next t) : CommandEffect (encode i) s t := by
  cases i with
  | nop => cases h; exact .nop rfl
  | init =>
    rw [exec_init] at h
    cases h
    cases hfs : sampleRateValid s.pFs
    · exact .rateRefused rfl hfs
    · exact .started rfl hfs
  | setp =>
    cases h
    rcases setParameters_cases Config.epsHz s with
      ⟨hinit, heq⟩ | ⟨hinit, hvalid, heq⟩ | ⟨hinit, hvalid, heq⟩ <;> rw [heq]
    · exact .rejected .eSeq (by simp [reportedCause_setp, hinit]) (by decide) (by decide)
    · exact .rejected .eParam (by simp [reportedCause_setp, hinit, hvalid]) (by decide) (by decide)
    · exact .published rfl hinit hvalid
  | proc =>
    cases h
    rcases processSample_cases Config.compGain Config.tanh s with
      ⟨hready, heq⟩ | ⟨hready, hin, heq⟩ | ⟨hready, hin, heq⟩ <;> rw [heq]
    · exact .rejected .eSeq (by simp [reportedCause, decode_encode, hready]) (by decide) (by decide)
    · exact .rejected .eNanin (by simp [reportedCause, decode_encode, hready, hin]) (by decide) (by decide)
    · exact .processed rfl hready hin
  | reset => cases h; exact .cleared rfl

theorem execute_effect {w : Word} {s t : State} (h : execute w s = .next t) : CommandEffect w s t := by
  rcases execute_cases w s with ⟨i, hdec, heq⟩ | ⟨why, hdec, heq⟩
  · rw [heq] at h
    rw [eq_encode_of_decode hdec]
    exact exec_effect h
  · rw [heq] at h
    cases h
    exact .rejected .eIll (by simp [reportedCause, hdec]) (by decide) (by decide)

/-! ## Steps -/

/-- What one step can leave, by what it serves: nothing but the queue and the answer changes, a hardware reset, a CMD
write, a STATUS write, or a staging write. -/
inductive StepEffect (s : State) : State → Prop
  | silent (p : List PlatformEvent) (r : Option Response) (hc : servedCommand s = none) (hr : servesReset s = false) :
      StepEffect s { s with pending := p, resp := r }
  | hardReset (p : List PlatformEvent) (hc : servedCommand s = none) (hr : servesReset s = true) :
      StepEffect s { State.reset with pending := p }
  | command (w : Word) (p : List PlatformEvent) (u : State) (hc : servedCommand s = some w) (hr : servesReset s = false)
      (he : CommandEffect w { s with pending := p } u) : StepEffect s (respond (.writeDone .okay) u)
  | statusWrite (v : Word) (p : List PlatformEvent) (hc : servedCommand s = none) (hr : servesReset s = false) :
      StepEffect s (respond (.writeDone .okay) (writeStatus v { s with pending := p }))
  | stagingWrite (r : RegName) (v : Word) (p : List PlatformEvent) (hacc : regAccess r = .rw)
      (hp : s.pending = .access (.write (regOffset r) 4 v) :: p) (hc : servedCommand s = none)
      (hr : servesReset s = false) : StepEffect s (respond (.writeDone .okay) (writeStaging r v { s with pending := p }))

theorem servedCommand_write {s : State} {off : Offset} {size : Nat} {v : Word} {rest : List PlatformEvent}
    (hp : s.pending = .access (.write off size v) :: rest) :
    servedCommand s = if off = regOffset .cmd ∧ size = 4 then some v else none := by
  simp [servedCommand, hp]

/-- A word write at a register's offset is a command exactly at CMD. -/
theorem servedCommand_writeReg {s : State} {r : RegName} {v : Word} {rest : List PlatformEvent}
    (hp : s.pending = .access (.write (regOffset r) 4 v) :: rest) (hr : r ≠ .cmd) : servedCommand s = none := by
  rw [servedCommand_write hp, if_neg]
  exact fun h => hr (regOffset_injective h.1)

theorem servesReset_access {s : State} {a : Access} {rest : List PlatformEvent} (hp : s.pending = .access a :: rest) :
    servesReset s = false := by
  simp [servesReset, hp]

theorem step_effect {s t : State} (h : step s = .next t) : StepEffect s t := by
  rcases step_cases h with ⟨hp, rfl⟩ | ⟨rest, hp, rfl⟩ | ⟨off, size, rest, hp, rfl⟩ | ⟨off, size, v, rest, hp, htgt, rfl⟩ |
    ⟨r, v, rest, u, hp, hw, rfl⟩
  · exact .silent t.pending t.resp (by simp [servedCommand, hp]) (by simp [servesReset, hp])
  · exact .hardReset rest (by simp [servedCommand, hp]) (by simp [servesReset, hp])
  · exact .silent rest _ (by simp [servedCommand, hp]) (servesReset_access hp)
  · refine .silent rest _ ?_ (servesReset_access hp)
    rw [servedCommand_write hp, if_neg]
    rintro ⟨rfl, rfl⟩
    simp at htgt
  · have hr := servesReset_access hp
    rcases writeReg_cases hw with ⟨rfl, hexec⟩ | ⟨rfl, rfl⟩ | ⟨hacc, rfl⟩ | ⟨hacc, rfl⟩
    · exact .command v rest u (by simp [servedCommand_write hp]) hr (execute_effect hexec)
    · exact .statusWrite v rest (servedCommand_writeReg hp (by decide)) hr
    · exact .stagingWrite r v rest hacc hp (servedCommand_writeReg hp (by rintro rfl; cases hacc)) hr
    · exact .silent rest _ (servedCommand_writeReg hp (by rintro rfl; cases hacc)) hr

/-- The step of a word write at a register's offset: the write, answered OKAY. -/
theorem step_write_next {s u : State} {r : RegName} {v : Word} {rest : List PlatformEvent}
    (hp : s.pending = .access (.write (regOffset r) 4 v) :: rest)
    (hw : writeReg r v { s with pending := rest } = .next u) : step s = .next (respond (.writeDone .okay) u) := by
  simp [step, serveNext, hp, serveEvent, serveAccess, memWrite, hw, answer]

end Sys2Proof.Machine
end

section
/-! The register window: the bits of the STATUS word, and what a STATUS write and a staging write leave to be read. -/

namespace Sys2Proof.Machine

/-! ## The STATUS word -/

/-- STATUS as the concatenation of its fields, at the width their widths add up to (R45). -/
theorem getLsbD_statusWord_append (st : Status) (k : Nat) :
    (statusWord st).getLsbD k =
      ((0 : BitVec 18) ++ BitVec.ofBool st.nfOut ++ BitVec.ofBool st.eIll ++ BitVec.ofBool st.eNanin ++
        BitVec.ofBool st.eSeq ++ BitVec.ofBool st.eParam ++ BitVec.ofBool st.eCfg ++ (0 : BitVec 3) ++
        BitVec.ofBool st.rescl ++ BitVec.ofBool st.cutcl ++ BitVec.ofBool (ready st) ++
        BitVec.ofBool st.cvalid ++ BitVec.ofBool st.inited).getLsbD k := rfl

/-- The bits of STATUS from bit 0 up; every bit above them is 0 (R45). -/
def statusBits (st : Status) : List Bool :=
  [st.inited, st.cvalid, ready st, st.cutcl, st.rescl, false, false, false, st.eCfg, st.eParam, st.eSeq, st.eNanin,
    st.eIll, st.nfOut]

/-- The widths are kept as sums while the concatenation is taken apart: each field is then found by its place. -/
theorem getLsbD_statusWord (st : Status) (k : Nat) : (statusWord st).getLsbD k = (statusBits st).getD k false := by
  simp only [getLsbD_statusWord_append, BitVec.getLsbD_append, -Nat.reduceAdd]
  rcases lt_or_ge k 14 with hk | hk
  · interval_cases k <;> simp [statusBits]
  · rw [List.getD_eq_default _ _ hk]
    repeat rw [if_neg (by omega)]
    exact BitVec.getLsbD_zero

theorem statusWord_sticky (st : Status) (c : Cause) : (statusWord st).getLsbD (causeCode c) = stickyBit st c := by
  cases c <;> exact getLsbD_statusWord st _

theorem statusWord_reserved (st : Status) {k : Nat} (h : 5 ≤ k ∧ k ≤ 7 ∨ 14 ≤ k) :
    (statusWord st).getLsbD k = false := by
  rw [getLsbD_statusWord]
  rcases h with ⟨hlo, hhi⟩ | h
  · interval_cases k <;> rfl
  · exact List.getD_eq_default _ _ h

/-- Settles O12: the fields of the concatenation, the zeros between and above them included. -/
theorem statusWordLayout : Obligations.StatusWordLayout := by
  intro s
  have hbit := getLsbD_statusWord s.status
  exact ⟨hbit 0, hbit 1, hbit 2, hbit 3, hbit 4, statusWord_sticky s.status, fun k => statusWord_reserved s.status⟩

/-- A bit from 8 to 13 is the sticky bit of some cause. -/
theorem causeCode_surjective {k : Nat} (hlo : 8 ≤ k) (hhi : k ≤ 13) : ∃ c, causeCode c = k := by
  interval_cases k
  exacts [⟨.eCfg, rfl⟩, ⟨.eParam, rfl⟩, ⟨.eSeq, rfl⟩, ⟨.eNanin, rfl⟩, ⟨.eIll, rfl⟩, ⟨.nfOut, rfl⟩]

theorem statusWord_clearSticky_sticky (v : Word) (st : Status) {k : Nat} (hlo : 8 ≤ k) (hhi : k ≤ 13) :
    (statusWord (clearSticky v st)).getLsbD k = ((statusWord st).getLsbD k && !v.getLsbD k) := by
  obtain ⟨c, rfl⟩ := causeCode_surjective hlo hhi
  rw [statusWord_sticky, statusWord_sticky, stickyBit_clearSticky]

theorem statusWord_clearSticky_other (v : Word) (st : Status) {k : Nat} (h : k < 8 ∨ 13 < k) :
    (statusWord (clearSticky v st)).getLsbD k = (statusWord st).getLsbD k := by
  by_cases hres : 5 ≤ k ∧ k ≤ 7 ∨ 14 ≤ k
  · rw [statusWord_reserved _ hres, statusWord_reserved _ hres]
  · have hk : k < 5 := by omega
    rw [getLsbD_statusWord, getLsbD_statusWord]
    interval_cases k <;> rfl

/-! ## Host writes -/

@[simp] theorem readReg_respond (a : Response) (s : State) (r : RegName) : readReg (respond a s) r = readReg s r := by
  cases r <;> rfl

theorem readReg_writeStatus {r : RegName} (v : Word) (s : State) (h : r ≠ .status) :
    readReg (writeStatus v s) r = readReg s r := by
  cases r <;> first | rfl | contradiction

/-- Settles O11: the STATUS write is one step, and it acts on the sticky bits alone. -/
theorem statusWriteClearsWrittenOnes : Obligations.StatusWriteClearsWrittenOnes := by
  intro s v rest hp
  refine ⟨_, step_write_next (r := .status) hp rfl, fun k hlo hhi => ?_, fun k hk => ?_, fun r hr => ?_, rfl, rfl⟩
  · exact statusWord_clearSticky_sticky v s.status hlo hhi
  · exact statusWord_clearSticky_other v s.status hk
  · rw [readReg_respond, readReg_writeStatus v _ hr]
    cases r <;> rfl

theorem readReg_writeStaging_same {r : RegName} (v : Word) (s : State) (h : regAccess r = .rw) :
    readReg (writeStaging r v s) r = v := by
  cases r <;> first | rfl | contradiction

/-- A write that names no staging register changes nothing; one that does leaves the 35 other registers. -/
theorem readReg_writeStaging_other {r r' : RegName} (v : Word) (s : State) (h : r' ≠ r) :
    readReg (writeStaging r v s) r' = readReg s r' := by
  cases r <;> first | rfl | (cases r' <;> first | rfl | contradiction)

/-- Settles O10: a staging write is one step, and the register it names is the only one that reads otherwise. -/
theorem stagingWriteKeepsPattern : Obligations.StagingWriteKeepsPattern := by
  intro s r v rest hacc hp
  have hw : writeReg r v { s with pending := rest } = .next (writeStaging r v { s with pending := rest }) := by
    rw [writeReg, hacc]
  refine ⟨_, step_write_next hp hw, ?_, fun r' hr => ?_, ?_, ?_, rfl⟩
  · rw [readReg_respond, readReg_writeStaging_same v _ hacc]
  · rw [readReg_respond, readReg_writeStaging_other v _ hr]
    cases r' <;> rfl
  · rw [respond_status, writeStaging_status]
  · rw [respond_pending, writeStaging_pending]

/-! ## The reset state -/

/-- Settles O15: every field of the reset state is zero, and CGAIN and EPSHZ have no storage. -/
theorem resetRegisterValues : Obligations.ResetRegisterValues := by
  refine ⟨fun r hgain heps => ?_, rfl, rfl, rfl⟩
  cases r with
  | cgain => exact absurd rfl hgain
  | epshz => exact absurd rfl heps
  | status => decide
  | _ => rfl

end Sys2Proof.Machine
end

section
/-! Who writes what: each statement is a case analysis over what a step can do. -/

namespace Sys2Proof.Machine

/-- ECMD after a command: the word where a rejection is reported, and otherwise what it held (R49). -/
theorem CommandEffect.ecmd {w : Word} {s t : State} (h : CommandEffect w s t) :
    t.ecmd = match reportedCause w s with
      | none => s.ecmd
      | some .nfOut => s.ecmd
      | some _ => w := by
  cases h with
  | rejected c hc hcfg hnf =>
    rw [hc]
    cases c <;> first | rfl | contradiction
  | rateRefused hw hfs => rw [hw, reportedCause_init, hfs]; rfl
  | nop hw => rw [hw]; rfl
  | started hw hfs => rw [hw, reportedCause_init, hfs]; rfl
  | published hw hinit hvalid => rw [hw, reportedCause_setp, hinit, hvalid]; rfl
  | processed hw hready hin =>
    have hcause : reportedCause (encode .proc) s = none ∨ reportedCause (encode .proc) s = some .nfOut := by
      simp only [reportedCause, decode_encode, hready, hin, Bool.not_true, Bool.false_eq_true, if_false]
      split <;> simp
    rw [hw]
    rcases hcause with hcause | hcause <;> rw [hcause] <;> rfl
  | cleared hw => rw [hw]; rfl

/-- Settles O29: every rejection writes the word, and nothing else but hardware reset writes ECMD. -/
theorem ecmdHoldsLastRejectedWord : Obligations.EcmdHoldsLastRejectedWord := by
  intro s t hstep
  cases step_effect hstep with
  | silent p r hc hr => simp [hc, hr]
  | hardReset p hc hr => simp [hc, hr, State.reset]
  | command w p u hc hr he =>
    simp only [hc, hr, Option.some.injEq]
    refine ⟨by simp, ?_, by simp⟩
    rintro _ rfl
    exact he.ecmd
  | statusWrite v p hc hr => simp [hc, hr]
  | stagingWrite r v p hacc hp hc hr => simp [hc, hr]

/-! ## The filter memory and the active set -/

/-- A command that is not an accepted PROC, RESET or valid INIT leaves the filter memory and OUT. -/
theorem CommandEffect.filterMemory_writers {w : Word} {s t : State} (h : CommandEffect w s t) :
    (filterMemory t = filterMemory s ∧ t.out = s.out) ∨ w = encode .reset ∨
      (w = encode .init ∧ sampleRateValid s.pFs = true) ∨
      (w = encode .proc ∧ ready s.status = true ∧ isNaN s.pIn = false) := by
  cases h with
  | rejected c hc hcfg hnf => exact .inl ⟨rfl, rfl⟩
  | rateRefused hw hfs => exact .inl ⟨rfl, rfl⟩
  | nop hw => exact .inl ⟨rfl, rfl⟩
  | started hw hfs => exact .inr (.inr (.inl ⟨hw, hfs⟩))
  | published hw hinit hvalid => exact .inl ⟨rfl, rfl⟩
  | processed hw hready hin => exact .inr (.inr (.inr ⟨hw, hready, hin⟩))
  | cleared hw => exact .inr (.inl hw)

/-- Settles O30: a step that changes the filter memory or OUT serves one of their writers. -/
theorem filterMemoryWriters : Obligations.FilterMemoryWriters := by
  intro s t hstep hchange
  cases step_effect hstep with
  | silent p r hc hr => simp [filterMemory] at hchange
  | hardReset p hc hr => exact .inl hr
  | command w p u hc hr he =>
    rw [hc]
    rcases he.filterMemory_writers with ⟨hmem, hout⟩ | rfl | ⟨rfl, hfs⟩ | ⟨rfl, hready, hin⟩
    · exact absurd hchange (not_or.mpr ⟨not_not.mpr hmem, not_not.mpr hout⟩)
    · exact .inr (.inl rfl)
    · exact .inr (.inr (.inl ⟨rfl, hfs⟩))
    · exact .inr (.inr (.inr ⟨rfl, hready, hin⟩))
  | statusWrite v p hc hr => simp [filterMemory] at hchange
  | stagingWrite r v p hacc hp hc hr => simp [filterMemory] at hchange

/-- A command that is not a successful SETP or a valid INIT leaves the active set, and only the latter writes AFS. -/
theorem CommandEffect.activeSet_writers {w : Word} {s t : State} (h : CommandEffect w s t) :
    (activeSet t = activeSet s ∧ t.afs = s.afs) ∨ (w = encode .init ∧ sampleRateValid s.pFs = true) ∨
      (w = encode .setp ∧ s.status.inited = true ∧ setpOperandsValid s.pCut s.pRes s.pWt = true ∧ t.afs = s.afs) := by
  cases h with
  | rejected c hc hcfg hnf => exact .inl ⟨rfl, rfl⟩
  | rateRefused hw hfs => exact .inl ⟨rfl, rfl⟩
  | nop hw => exact .inl ⟨rfl, rfl⟩
  | started hw hfs => exact .inr (.inl ⟨hw, hfs⟩)
  | published hw hinit hvalid => exact .inr (.inr ⟨hw, hinit, hvalid, rfl⟩)
  | processed hw hready hin => exact .inl ⟨rfl, rfl⟩
  | cleared hw => exact .inl ⟨rfl, rfl⟩

/-- Settles O31: a step that changes the active set or AFS serves one of their writers. -/
theorem activeSetWriters : Obligations.ActiveSetWriters := by
  intro s t hstep
  cases step_effect hstep with
  | silent p r hc hr => simp [activeSet]
  | hardReset p hc hr => exact ⟨fun _ => .inl hr, fun _ => .inl hr⟩
  | command w p u hc hr he =>
    rw [hc]
    rcases he.activeSet_writers with ⟨hset, hafs⟩ | ⟨rfl, hfs⟩ | ⟨rfl, hinit, hvalid, hafs⟩
    · exact ⟨fun h => absurd hset h, fun h => absurd hafs h⟩
    · exact ⟨fun _ => .inr (.inl ⟨rfl, hfs⟩), fun _ => .inr ⟨rfl, hfs⟩⟩
    · exact ⟨fun _ => .inr (.inr ⟨rfl, hinit, hvalid⟩), fun h => absurd hafs h⟩
  | statusWrite v p hc hr => simp [activeSet]
  | stagingWrite r v p hacc hp hc hr => simp [activeSet]

/-! ## The staging registers -/

theorem CommandEffect.staging {w : Word} {s t : State} (h : CommandEffect w s t) :
    Machine.staging t = Machine.staging s := by
  cases h <;> rfl

/-- Settles O33: no command writes a staging register, and every other step that does is a hardware reset or a staging
write. -/
theorem stagingWriters : Obligations.StagingWriters := by
  refine ⟨fun i s t h => (exec_effect h).staging, fun s t hstep hchange => ?_⟩
  cases step_effect hstep with
  | silent p r hc hr => simp [staging] at hchange
  | hardReset p hc hr => exact .inl hr
  | command w p u hc hr he => exact absurd he.staging hchange
  | statusWrite v p hc hr => simp [staging] at hchange
  | stagingWrite r v p hacc hp hc hr => exact .inr ⟨r, v, p, hacc, hp⟩

/-! ## The mode bits -/

/-- The mode bits and clamp flags after a command: INIT decides INITED and clears CVALID, a valid one clears the flags, a
successful SETP sets CVALID and the flags, and every other command leaves all four (R46, R47). -/
theorem CommandEffect.modeBits {w : Word} {s t : State} (h : CommandEffect w s t) :
    (w = encode .init ∧ t.status.inited = sampleRateValid s.pFs ∧ t.status.cvalid = false ∧
      (if sampleRateValid s.pFs then t.status.cutcl = false ∧ t.status.rescl = false
        else t.status.cutcl = s.status.cutcl ∧ t.status.rescl = s.status.rescl)) ∨
    (w = encode .setp ∧ s.status.inited = true ∧ setpOperandsValid s.pCut s.pRes s.pWt = true ∧
      t.status.inited = true ∧ t.status.cvalid = true ∧
      t.status.cutcl = cutoffClamped Config.epsHz s.afs s.pCut ∧ t.status.rescl = resonanceClamped s.pRes) ∨
    (w ≠ encode .init ∧
      (w = encode .setp → ¬ (s.status.inited = true ∧ setpOperandsValid s.pCut s.pRes s.pWt = true)) ∧
      t.status.inited = s.status.inited ∧ t.status.cvalid = s.status.cvalid ∧
      t.status.cutcl = s.status.cutcl ∧ t.status.rescl = s.status.rescl) := by
  cases h with
  | rejected c hc hcfg hnf =>
    refine .inr (.inr ⟨?_, ?_, by simp⟩)
    · rintro rfl
      rw [reportedCause_init] at hc
      split at hc <;> simp_all
    · rintro rfl ⟨hinit, hvalid⟩
      simp [reportedCause_setp, hinit, hvalid] at hc
  | rateRefused hw hfs => exact .inl ⟨hw, hfs.symm, rfl, by simp [hfs]⟩
  | nop hw => exact .inr (.inr ⟨by simp [hw], by simp [hw], rfl, rfl, rfl, rfl⟩)
  | started hw hfs => exact .inl ⟨hw, hfs.symm, rfl, by simp [hfs]⟩
  | published hw hinit hvalid => exact .inr (.inl ⟨hw, hinit, hvalid, hinit, rfl, rfl, rfl⟩)
  | processed hw hready hin => exact .inr (.inr ⟨by simp [hw], by simp [hw], by simp⟩)
  | cleared hw => exact .inr (.inr ⟨by simp [hw], by simp [hw], rfl, rfl, rfl, rfl⟩)

/-- A step that serves neither a command nor a reset leaves the mode bits and the clamp flags. -/
theorem StepEffect.modeBits_frame {s t : State} (h : StepEffect s t) (hc : servedCommand s = none)
    (hr : servesReset s = false) :
    t.status.inited = s.status.inited ∧ t.status.cvalid = s.status.cvalid ∧ t.status.cutcl = s.status.cutcl ∧
      t.status.rescl = s.status.rescl := by
  cases h with
  | silent p r hc' hr' => exact ⟨rfl, rfl, rfl, rfl⟩
  | hardReset p hc' hr' => rw [hr] at hr'; cases hr'
  | command w p u hc' hr' he => rw [hc] at hc'; cases hc'
  | statusWrite v p hc' hr' => exact ⟨rfl, rfl, rfl, rfl⟩
  | stagingWrite r v p hacc hp hc' hr' => simp

theorem StepEffect.of_servesReset {s t : State} (h : StepEffect s t) (hr : servesReset s = true) :
    servedCommand s = none ∧ t.status = Status.zero := by
  cases h with
  | hardReset p hc hr' => exact ⟨hc, rfl⟩
  | silent p r hc hr' => rw [hr] at hr'; cases hr'
  | command w p u hc hr' he => rw [hr] at hr'; cases hr'
  | statusWrite v p hc hr' => rw [hr] at hr'; cases hr'
  | stagingWrite r v p hacc hp hc hr' => rw [hr] at hr'; cases hr'

theorem StepEffect.of_servedCommand {s t : State} {w : Word} (h : StepEffect s t) (hc : servedCommand s = some w) :
    servesReset s = false ∧ ∃ p u, CommandEffect w { s with pending := p } u ∧ t = respond (.writeDone .okay) u := by
  cases h with
  | command w' p u hc' hr he =>
    rw [hc] at hc'; cases hc'
    exact ⟨hr, p, u, he, rfl⟩
  | silent p r hc' hr => rw [hc] at hc'; cases hc'
  | hardReset p hc' hr => rw [hc] at hc'; cases hc'
  | statusWrite v p hc' hr => rw [hc] at hc'; cases hc'
  | stagingWrite r v p hacc hp hc' hr => rw [hc] at hc'; cases hc'

/-- Settles O32: by what the step serves, and for a command by what it does to the mode bits. -/
theorem modeBitWriters : Obligations.ModeBitWriters := by
  intro s t hstep
  have heff := step_effect hstep
  have hready : (readReg t .status).getLsbD 2 = (t.status.inited && t.status.cvalid) := getLsbD_statusWord t.status 2
  rw [hready]
  rcases hr : servesReset s with _ | _
  · rcases hc : servedCommand s with _ | w
    · obtain ⟨hinited, hcvalid, hcutcl, hrescl⟩ := heff.modeBits_frame hc hr
      simp_all
    · obtain ⟨-, p, u, he, rfl⟩ := heff.of_servedCommand hc
      have hinit : encode .init = 0x00000001#32 := rfl
      have hsetp : encode .setp = 0x00000002#32 := rfl
      rw [← hinit, ← hsetp]
      simp only [respond_status]
      rcases he.modeBits with ⟨rfl, hinited, hcvalid, hflags⟩ |
        ⟨rfl, hmode, hvalid, hinited, hcvalid, hcutcl, hrescl⟩ |
        ⟨hninit, hnsetp, hinited, hcvalid, hcutcl, hrescl⟩
      · cases hfs : sampleRateValid s.pFs <;> simp_all
      · simp_all
      · simp_all
  · obtain ⟨hc, hzero⟩ := heff.of_servesReset hr
    simp [hc, hzero, Status.zero]

end Sys2Proof.Machine
end

section
/-! The datapath under the invariant (R53): the feedback drive is no NaN, TANH brings it into [-1, 1], and each stage keeps
its output within 2^25 times the bound of its input. -/

namespace Sys2Proof.Machine

/-! ## Powers of two as bounds -/

/-- The pattern of 2^n. -/
def powWord (n : ℕ) : Word := packBits false (powBits n)

theorem powBits_natCast (n : ℕ) : powBits n = (n + 126) * 2 ^ 23 + 2 ^ 23 := by
  unfold powBits; omega

theorem magBits_powWord {n : ℕ} (h : n ≤ 127) : magBits (powWord n) = powBits n := by
  have := powBits_natCast n
  exact magBits_packBits (by omega)

theorem magnitude_powWord {n : ℕ} (h : n ≤ 127) : magnitude (powWord n) = 2 ^ (n + 149) := by
  rw [magnitude_of_magBits ((magBits_powWord h).trans (powBits_natCast n)) (by decide) (.inr le_rfl), ← Nat.pow_add]
  congr 1; omega

theorem isFinite_powWord {n : ℕ} (h : n ≤ 127) : isFinite (powWord n) = true := by
  have := powBits_natCast n
  rw [isFinite_iff, magBits_powWord h, infBits]; omega

theorem isFinite_of_le_powBits {v : Word} {n : ℕ} (hn : n ≤ 127) (h : magBits v ≤ powBits n) : isFinite v = true :=
  isFinite_of_magBits_le (isFinite_powWord hn) (by rwa [magBits_powWord hn])

theorem magnitude_le_pow {v : Word} {n : ℕ} (hn : n ≤ 127) (h : magBits v ≤ powBits n) :
    magnitude v ≤ 2 ^ (n + 149) := by
  rw [← magnitude_powWord hn]
  exact magnitude_mono (by rwa [magBits_powWord hn])

theorem magBits_le_of_magnitude_le {v w : Word} (hv : isFinite v = true) (hw : isFinite w = true)
    (h : magnitude v ≤ magnitude w) : magBits v ≤ magBits w := by
  rw [← roundMag_magnitude Nat.one_pos hv]
  exact roundMag_le_magBits Nat.one_pos hw (by omega)

/-- A value of an interval within [-c, c] has no larger a magnitude than a word of value c. -/
theorem magBits_le_of_inMillis {v w : Word} {lo hi : Int} (h : inMillis v lo hi) (hw : isFinite w = true)
    (hlo : -(1000 * magnitude w) ≤ lo * 2 ^ 149) (hhi : hi * 2 ^ 149 ≤ 1000 * magnitude w) : magBits v ≤ magBits w := by
  obtain ⟨hf, hge, hle⟩ := h
  refine magBits_le_of_magnitude_le hf hw ?_
  have := scaled_abs v
  rw [Int.abs_eq_natAbs] at this
  omega

theorem magBits_fmul_le_pow {a b : Word} {m n : ℕ} (hmn : m + n ≤ 127) (ha : magBits a ≤ powBits m)
    (hb : magBits b ≤ powBits n) : magBits (fmul a b) ≤ powBits (m + n : ℕ) := by
  have hm : m ≤ 127 := by omega
  have hn : n ≤ 127 := by omega
  rw [← magBits_powWord hmn]
  apply magBits_fmul_le (isFinite_of_le_powBits hm ha) (isFinite_of_le_powBits hn hb) (isFinite_powWord hmn)
  rw [magnitude_powWord hmn]
  calc magnitude a * magnitude b ≤ 2 ^ (m + 149) * 2 ^ (n + 149) :=
        Nat.mul_le_mul (magnitude_le_pow hm ha) (magnitude_le_pow hn hb)
    _ = 2 ^ (m + n + 149) * 2 ^ 149 := by rw [← Nat.pow_add, ← Nat.pow_add]; congr 1; omega

theorem magBits_fadd_le_pow {a b : Word} {n : ℕ} (hn : n + 1 ≤ 127) (ha : magBits a ≤ powBits n)
    (hb : magBits b ≤ powBits n) : magBits (fadd a b) ≤ powBits (n + 1 : ℕ) := by
  have hn' : n ≤ 127 := by omega
  rw [← magBits_powWord hn]
  apply magBits_fadd_le (isFinite_of_le_powBits hn' ha) (isFinite_of_le_powBits hn' hb) (isFinite_powWord hn)
  have habs := abs_add_le (scaled a) (scaled b)
  rw [scaled_abs, scaled_abs] at habs
  have hpow : 2 ^ (n + 1 + 149) = 2 * 2 ^ (n + 149) := by rw [← Nat.pow_succ']
  have hma := magnitude_le_pow hn' ha
  have hmb := magnitude_le_pow hn' hb
  rw [magnitude_powWord hn]
  omega

/-! ## The feedback drive -/

theorem isNaN_fadd_of_finite_right {a b : Word} (ha : isNaN a = false) (hb : isFinite b = true) :
    isNaN (fadd a b) = false := by
  have hinf : ∀ neg, isNaN (infOf neg) = false := by decide
  cases hia : isInf a
  · have hfa : isFinite a = true := by rw [isFinite_eq, ha, hia]; rfl
    have hle := roundMag_le_infBits (scaled a + scaled b).natAbs 1
    rw [← Bool.not_eq_true, isNaN_iff, magBits_fadd hfa hb]
    omega
  · have heq : fadd a b = infOf (signBit a) := by
      simp [fadd, ha, isNaN_of_finite hb, hia, isInf_of_finite hb]
    rw [heq, hinf]

theorem isNaN_fmul_of_nonzero_left {a b : Word} (ha : isFinite a = true) (hz : isZero a = false)
    (hb : isNaN b = false) : isNaN (fmul a b) = false := by
  have hinf : ∀ neg, isNaN (infOf neg) = false := by decide
  cases hib : isInf b
  · have hfb : isFinite b = true := by rw [isFinite_eq, hb, hib]; rfl
    rw [fmul_finite ha hfb, isNaN_roundTo]
  · have hzb : isZero b = false := by
      rw [isInf_iff] at hib
      rw [← Bool.not_eq_true, isZero_iff, hib]; decide
    have heq : fmul a b = infOf (signBit a != signBit b) := by
      simp [fmul, isNaN_of_finite ha, hb, hib, hz, hzb]
    rw [heq, hinf]

/-- Four times a resonance gain of R38. -/
theorem feedbackGain_range {rg : Word} (h : inMillis rg 0 1011) :
    magBits (feedbackGain rg) ≤ powBits 3 ∧ 0 ≤ scaled (feedbackGain rg) := by
  have hrg : magBits rg ≤ powBits (1 : ℕ) :=
    (magBits_le_of_inMillis (w := powWord 1) h (by decide) (by decide) (by decide)).trans (by decide)
  have hfour : magBits K_FOUR ≤ powBits (2 : ℕ) := by decide
  obtain ⟨hf, hge, -⟩ := h
  refine ⟨magBits_fmul_le_pow (m := 2) (n := 1) (by omega) hfour hrg, ?_⟩
  rw [feedbackGain, fmul_comm (by decide) hf]
  exact scaled_fmul_nonneg hf (by decide) (by omega) (by decide)

/-- The drive factor is finite and at least 1 (R216). -/
theorem driveGain_range {cg rg : Word} (hcg : Config.compGainAdmissible cg = true) (hrg : inMillis rg 0 1011) :
    isFinite (driveGain cg rg) = true ∧ magBits K_ONE ≤ magBits (driveGain cg rg) := by
  obtain ⟨hk4, hk4pos⟩ := feedbackGain_range hrg
  obtain ⟨hcs, hcb⟩ := (Config.compGainAdmissible_iff cg).mp hcg
  have hcpow : magBits cg ≤ powBits (64 : ℕ) := hcb.trans (by decide)
  have hprod : magBits (fmul (feedbackGain rg) cg) ≤ powBits (67 : ℕ) :=
    magBits_fmul_le_pow (m := 3) (n := 64) (by omega) hk4 hcpow
  have hprodPos := scaled_fmul_nonneg (isFinite_of_le_powBits (n := 3) (by omega) hk4)
    (Config.isFinite_of_compGainAdmissible hcg) hk4pos hcs
  have hone : isFinite K_ONE = true ∧ scaled K_ONE = magnitude K_ONE ∧ magBits K_ONE ≤ powBits (67 : ℕ) := by decide
  obtain ⟨hof, hos, hob⟩ := hone
  constructor
  · exact isFinite_of_le_powBits (n := 68) (by omega) (magBits_fadd_le_pow (by omega) hob hprod)
  · refine le_magBits_fadd hof (isFinite_of_le_powBits (by omega) hprod) hof ?_
    rw [hos, abs_of_nonneg (by omega)]
    omega

theorem feedbackDrive_not_nan {cg rg fbr x : Word} (hcg : Config.compGainAdmissible cg = true)
    (hrg : inMillis rg 0 1011) (hfbr : magBits fbr ≤ powBits 100) (hx : isNaN x = false) : isNaN (feedbackDrive cg rg fbr x) = false := by
  obtain ⟨hdf, hdge⟩ := driveGain_range hcg hrg
  have hdz : isZero (driveGain cg rg) = false := by
    have hone : 0 < magBits K_ONE := by decide
    rw [← Bool.not_eq_true, isZero_iff]; omega
  have hdelay : magBits (fmul (feedbackGain rg) fbr) ≤ powBits (103 : ℕ) :=
    magBits_fmul_le_pow (m := 3) (n := 100) (by omega) (feedbackGain_range hrg).1 hfbr
  apply isNaN_fadd_of_finite_right (isNaN_fmul_of_nonzero_left hdf hdz hx)
  rw [isFinite_fneg]
  exact isFinite_of_le_powBits (by omega) hdelay

/-- TANH gives a value from -1 to 1 for every argument that is no NaN (law T2 of R160). -/
theorem magBits_tanh_le {x : Word} (hx : isNaN x = false) : magBits (Config.tanh x) ≤ magBits K_ONE := by
  unfold Config.tanh Config.lawful
  rw [if_neg (by simp [hx])]
  split
  case isTrue hz => rw [(isZero_iff x).mp hz]; exact Nat.zero_le _
  case isFalse =>
    split
    case isTrue => split <;> decide
    case isFalse =>
      split
      case isTrue h => exact h
      case isFalse => exact le_rfl

/-! ## The stages -/

/-- Half a unit above 2^23 rounds to 2^23, which is even. -/
theorem roundHalfEven_half {u : ℕ} (hu : 0 < u) : roundHalfEven ((2 ^ 24 + 1) * u) (2 * u) = 2 ^ 23 := by
  have hsplit : (2 ^ 24 + 1) * u = u + 2 * u * 2 ^ 23 := by ring
  have hmod : (2 ^ 24 + 1) * u % (2 * u) = u := by
    rw [hsplit, Nat.add_mul_mod_self_left, Nat.mod_eq_of_lt (by omega)]
  have hdiv : (2 ^ 24 + 1) * u / (2 * u) = 2 ^ 23 := by
    rw [hsplit, Nat.add_mul_div_left _ _ (by omega), Nat.div_eq_of_lt (by omega), Nat.zero_add]
  rw [roundHalfEven, hmod, hdiv]
  simp

/-- At 2^(k+25) the last place is worth 2^(k+2), so that an increment of 2^(k+1) is half of it and the tie falls back. -/
theorem roundMag_absorbs (k : ℕ) : roundMag (2 ^ (k + 25 + 149) + 2 ^ (k + 1 + 149)) 1 ≤ powBits (k + 25 : ℕ) := by
  have hnum : 2 ^ (k + 25 + 149) + 2 ^ (k + 1 + 149) = (2 ^ 24 + 1) * 2 ^ (k + 150) := by
    rw [show k + 25 + 149 = 24 + (k + 150) by omega, show k + 1 + 149 = k + 150 by omega, Nat.pow_add]; ring
  have hlog : Nat.log2 ((2 ^ 24 + 1) * 2 ^ (k + 150)) = k + 174 := by
    rw [Nat.log2_eq_iff (by positivity), show k + 174 = 24 + (k + 150) by omega,
      show 24 + (k + 150) + 1 = 25 + (k + 150) by omega, Nat.pow_add 2 24, Nat.pow_add 2 25]
    have hpos : 0 < 2 ^ (k + 150) := by positivity
    constructor <;> omega
  have hexp : roundExp ((2 ^ 24 + 1) * 2 ^ (k + 150)) 1 = k + 151 := by
    rw [roundExp, Nat.div_one, hlog]; omega
  have hround : roundHalfEven ((2 ^ 24 + 1) * 2 ^ (k + 150)) (1 * 2 ^ (k + 151)) = 2 ^ 23 := by
    rw [Nat.one_mul, show 2 ^ (k + 151) = 2 * 2 ^ (k + 150) by rw [← Nat.pow_succ']]
    have hpos : 0 < 2 ^ (k + 150) := by positivity
    generalize 2 ^ (k + 150) = u at hpos ⊢
    exact roundHalfEven_half hpos
  rw [hnum, roundMag, hexp, hround, powBits_natCast]
  exact (Nat.min_le_left _ _).trans (by omega)

/-- A stage whose input and previous input are within 2^k and whose previous output is within 2^(k+25) gives an output
within 2^(k+25) (R53 part (c)). -/
theorem stageOutput_bound {b0 b1 a1 x : Word} {st : Stage} {k : ℕ} (hk : k ≤ 100) (hb0 : magBits b0 ≤ magBits K_ONE)
    (hb1 : magBits b1 ≤ magBits K_ONE) (ha1 : magBits a1 ≤ magBits K_ONE) (hx : magBits x ≤ powBits k)
    (hpi : magBits st.pi ≤ powBits k) (hpo : magBits st.po ≤ powBits (k + 25 : ℕ)) :
    magBits (stageOutput b0 b1 a1 x st) ≤ powBits (k + 25 : ℕ) := by
  have hk' : k + 25 ≤ 127 := by omega
  have hinput := (magBits_fmul_le_right (isFinite_of_le_powBits (by omega) hx) hb0).trans hx
  have hprevious := (magBits_fmul_le_right (isFinite_of_le_powBits (by omega) hpi) hb1).trans hpi
  have hincrement := magBits_fadd_le_pow (by omega) hinput hprevious
  have hfeedback := (magBits_fmul_le_right (isFinite_of_le_powBits hk' hpo) ha1).trans hpo
  rw [stageOutput, magBits_fadd (isFinite_of_le_powBits (by omega) hincrement) (isFinite_of_le_powBits hk' hfeedback)]
  refine le_trans (roundMag_mono Nat.one_pos Nat.one_pos ?_) (roundMag_absorbs k)
  have habs := Int.natAbs_add_le (scaled (fadd (fmul b0 x) (fmul b1 st.pi))) (scaled (fmul a1 st.po))
  rw [scaled_natAbs, scaled_natAbs] at habs
  have hm1 := magnitude_le_pow (by omega) hincrement
  have hm2 := magnitude_le_pow hk' hfeedback
  omega

end Sys2Proof.Machine
end

section
/-! The invariant (R38, R39, R51 to R53): it holds at reset, every command and every step keeps it, and so it holds along
every run. -/

namespace Sys2Proof.Machine

/-! ## What the invariant depends on -/

theorem CoeffBounds.of_frame {s t : State} (h : CoeffBounds s) (hb0 : t.b0 = s.b0) (hb1 : t.b1 = s.b1)
    (ha1 : t.a1 = s.a1) (hrg : t.rg = s.rg) : CoeffBounds t := by
  obtain ⟨hb0r, hb1r, ha1r, hrgr, hb0s, hb1s⟩ := h
  constructor <;> simpa only [hb0, hb1, ha1, hrg]

theorem LatchPairs.of_frame {s t : State} (h : LatchPairs s) (hmem : filterMemory t = filterMemory s) : LatchPairs t := by
  simp only [filterMemory, List.cons.injEq, and_true] at hmem
  obtain ⟨h1i, h1o, h2i, h2o, h3i, h3o, h4i, h4o, hfbr⟩ := hmem
  obtain ⟨hp2, hp3, hp4, hpf⟩ := h
  constructor <;> simpa only [h1o, h2i, h2o, h3i, h3o, h4i, h4o, hfbr]

theorem LatchBounds.of_frame {s t : State} (h : LatchBounds s) (hmem : filterMemory t = filterMemory s) :
    LatchBounds t := by
  simp only [filterMemory, List.cons.injEq, and_true] at hmem
  obtain ⟨h1i, h1o, -, h2o, -, h3o, -, h4o, -⟩ := hmem
  obtain ⟨hl1i, hl1, hl2, hl3, hl4⟩ := h
  constructor <;> simpa only [h1i, h1o, h2o, h3o, h4o]

/-- The invariant reads the filter memory, the active set, AFS and the mode bits, and nothing else. -/
theorem Inv.of_frame {s t : State} (h : Inv s) (hmem : filterMemory t = filterMemory s)
    (hset : activeSet t = activeSet s) (hafs : t.afs = s.afs) (hinited : t.status.inited = s.status.inited)
    (hcvalid : t.status.cvalid = s.status.cvalid) : Inv t := by
  simp only [activeSet, List.cons.injEq, and_true] at hset
  obtain ⟨-, -, hb0, hb1, ha1, hrg, ha, hb, hc, hd, he⟩ := hset
  exact
    { mode_legal := by rw [hinited, hcvalid]; exact h.mode_legal
      rate_valid := by rw [hinited, hafs]; exact h.rate_valid
      weights_finite := by rw [weightsFinite, ha, hb, hc, hd, he]; exact h.weights_finite
      coeffs := h.coeffs.of_frame hb0 hb1 ha1 hrg
      pairs := h.pairs.of_frame hmem
      latches := h.latches.of_frame hmem }

/-- Coefficients at +0 are in range. -/
theorem coeffBounds_of_zero {s : State} (hb0 : s.b0 = posZero) (hb1 : s.b1 = posZero) (ha1 : s.a1 = posZero)
    (hrg : s.rg = posZero) : CoeffBounds s := by
  have hzero : isFinite posZero = true ∧ scaled posZero = 0 ∧ signBit posZero = false := by decide
  obtain ⟨hf, hs, hsign⟩ := hzero
  constructor <;> simp [inMillis, hb0, hb1, ha1, hrg, hf, hs, hsign]

theorem latchPairs_of_zero {s : State} (h1 : s.s1 = ⟨posZero, posZero⟩) (h2 : s.s2 = ⟨posZero, posZero⟩)
    (h3 : s.s3 = ⟨posZero, posZero⟩) (h4 : s.s4 = ⟨posZero, posZero⟩) (hfbr : s.fbr = posZero) : LatchPairs s := by
  constructor <;> simp only [h1, h2, h3, h4, hfbr]

theorem latchBounds_of_zero {s : State} (h1 : s.s1 = ⟨posZero, posZero⟩) (h2 : s.s2 = ⟨posZero, posZero⟩)
    (h3 : s.s3 = ⟨posZero, posZero⟩) (h4 : s.s4 = ⟨posZero, posZero⟩) : LatchBounds s := by
  have hzero : magBits posZero = 0 := by decide
  constructor <;> simp only [h1, h2, h3, h4, hzero, Nat.zero_le]

/-! ## Reset -/

/-- Settles O58: nothing is initialised, and every latch holds +0. -/
theorem resetMeetsInvariant : Obligations.ResetMeetsInvariant where
  mode_legal h := by cases h
  rate_valid h := by cases h
  weights_finite := by decide
  coeffs := coeffBounds_of_zero rfl rfl rfl rfl
  pairs := latchPairs_of_zero rfl rfl rfl rfl rfl
  latches := latchBounds_of_zero rfl rfl rfl rfl

/-! ## Commands -/

theorem Inv.zeroFilterMemory {s : State} (h : Inv s) : Inv (zeroFilterMemory s) :=
  { h with
    coeffs := h.coeffs.of_frame rfl rfl rfl rfl
    pairs := latchPairs_of_zero rfl rfl rfl rfl rfl
    latches := latchBounds_of_zero rfl rfl rfl rfl }

theorem inv_startStream {s : State} (hfs : sampleRateValid s.pFs = true) : Inv (startStream s) where
  mode_legal h := by cases h
  rate_valid _ := hfs
  weights_finite := by rw [startStream_wt]; decide
  coeffs := coeffBounds_of_zero rfl rfl rfl rfl
  pairs := latchPairs_of_zero rfl rfl rfl rfl rfl
  latches := latchBounds_of_zero rfl rfl rfl rfl

/-- Dropping the mode makes no promise. -/
theorem Inv.refuseRate {s : State} (h : Inv s) : Inv (refuseRate s) :=
  have hdropped : Inv { s with status := { s.status with inited := false, cvalid := false } } :=
    { mode_legal := fun hc => by cases hc
      rate_valid := fun hi => by cases hi
      weights_finite := h.weights_finite
      coeffs := h.coeffs.of_frame rfl rfl rfl rfl
      pairs := h.pairs.of_frame rfl
      latches := h.latches.of_frame rfl }
  hdropped.of_frame rfl rfl rfl rfl rfl

/-- A successful SETP: the new coefficients are in range and the new weights are finite. -/
theorem Inv.publish {s : State} (h : Inv s) (hinit : s.status.inited = true)
    (hvalid : setpOperandsValid s.pCut s.pRes s.pWt = true) :
    Inv (publish (cpe Config.epsHz s.afs s.pCut s.pRes) s) where
  mode_legal _ := hinit
  rate_valid := h.rate_valid
  weights_finite := by
    simp only [setpOperandsValid, Bool.and_eq_true] at hvalid
    exact hvalid.2
  coeffs := (publish_cpe_coeffs Config.epsHzAdmissible_epsHz (h.rate_valid hinit) hvalid).1
  pairs := h.pairs.of_frame rfl
  latches := h.latches.of_frame rfl

/-- Coefficients of R38 have magnitudes of at most 1, the gain RG apart. -/
theorem CoeffBounds.magBits_le {s : State} (h : CoeffBounds s) :
    magBits s.b0 ≤ magBits K_ONE ∧ magBits s.b1 ≤ magBits K_ONE ∧ magBits s.a1 ≤ magBits K_ONE := by
  have hone : magnitude K_ONE = 2 ^ 149 := by decide
  refine ⟨magBits_le_of_inMillis h.b0_range (by decide) ?_ ?_, magBits_le_of_inMillis h.b1_range (by decide) ?_ ?_,
    magBits_le_of_inMillis h.a1_range (by decide) ?_ ?_⟩ <;> rw [hone] <;> norm_num

/-- The taps of an accepted PROC, stage by stage: each output is the next stage's input. -/
theorem Inv.computeTaps_bounds {s : State} {x : Word} (h : Inv s) (hx : isNaN x = false) :
    let taps := computeTaps Config.compGain Config.tanh s x
    magBits taps.nl ≤ powBits 0 ∧ magBits taps.out1 ≤ powBits 25 ∧ magBits taps.out2 ≤ powBits 50 ∧
      magBits taps.out3 ≤ powBits 75 ∧ magBits taps.out4 ≤ powBits 100 := by
  obtain ⟨hb0, hb1, ha1⟩ := h.coeffs.magBits_le
  obtain ⟨hp2, hp3, hp4, hpf⟩ := h.pairs
  obtain ⟨hl1i, hl1, hl2, hl3, hl4⟩ := h.latches
  have hdrive := feedbackDrive_not_nan Config.compGainAdmissible_compGain h.coeffs.rg_range (hpf ▸ hl4) hx
  have hnl := magBits_tanh_le hdrive
  have hone : magBits K_ONE = powBits 0 := by decide
  rw [hone] at hnl
  have hout1 := stageOutput_bound (k := 0) (by omega) hb0 hb1 ha1 hnl hl1i hl1
  have hout2 := stageOutput_bound (k := 25) (by omega) hb0 hb1 ha1 hout1 (hp2 ▸ hl1) hl2
  have hout3 := stageOutput_bound (k := 50) (by omega) hb0 hb1 ha1 hout2 (hp3 ▸ hl2) hl3
  have hout4 := stageOutput_bound (k := 75) (by omega) hb0 hb1 ha1 hout3 (hp4 ▸ hl3) hl4
  exact ⟨hnl, hout1, hout2, hout3, hout4⟩

/-- An accepted PROC: every pair of R52 is written from one tap, and the taps are bounded. -/
theorem Inv.commitTaps {s : State} {y : Word} (h : Inv s) (hin : isNaN s.pIn = false) :
    Inv (commitTaps (computeTaps Config.compGain Config.tanh s s.pIn) y s) := by
  obtain ⟨hnl, hout1, hout2, hout3, hout4⟩ := h.computeTaps_bounds hin
  exact
    { mode_legal := by simpa using h.mode_legal
      rate_valid := by simpa using h.rate_valid
      weights_finite := h.weights_finite
      coeffs := h.coeffs.of_frame rfl rfl rfl rfl
      pairs := ⟨rfl, rfl, rfl, rfl⟩
      latches := ⟨hnl, hout1, hout2, hout3, hout4⟩ }

theorem CommandEffect.keeps_inv {w : Word} {s t : State} (h : CommandEffect w s t) (hs : Inv s) : Inv t := by
  cases h with
  | rejected c hc hcfg hnf => exact hs.of_frame rfl rfl rfl (by simp) (by simp)
  | rateRefused hw hfs => exact hs.refuseRate
  | nop hw => exact hs
  | started hw hfs => exact inv_startStream hfs
  | published hw hinit hvalid => exact hs.publish hinit hvalid
  | processed hw hready hin => exact hs.commitTaps hin
  | cleared hw => exact hs.zeroFilterMemory

/-! ## Steps and runs -/

/-- Settles O59: only commands and hardware reset touch what the invariant reads. -/
theorem everyStepKeepsInvariant : Obligations.EveryStepKeepsInvariant := by
  intro s t hs hstep
  cases step_effect hstep with
  | silent p r hc hr => exact hs.of_frame rfl rfl rfl rfl rfl
  | hardReset p hc hr => exact resetMeetsInvariant.of_frame rfl rfl rfl rfl rfl
  | command w p u hc hr he =>
    have hu : Inv u := he.keeps_inv (hs.of_frame rfl rfl rfl rfl rfl)
    exact hu.of_frame rfl rfl rfl rfl rfl
  | statusWrite v p hc hr => exact hs.of_frame rfl rfl rfl rfl rfl
  | stagingWrite r v p hacc hp hc hr =>
    exact hs.of_frame (by simp [filterMemory]) (by simp [activeSet]) (by simp) (by simp) (by simp)

/-- What every step keeps holds along every run. -/
theorem run_keeps (M : Host.Core) {P : M.State → Prop} (hstep : ∀ s t, P s → M.step s = .next t → P t) {n : Nat}
    {s t : M.State} (hs : P s) (h : M.run n s = .next t) : P t := by
  induction n generalizing s with
  | zero => cases h; exact hs
  | succ n ih =>
    unfold Host.Core.run at h
    split at h
    case h_1 u hu => exact ih (hstep s u hs hu) h
    case h_2 => cases h
    case h_3 => cases h

/-- Every bound of the invariant is below infinity. -/
theorem Inv.filterMemory_finite {s : State} (h : Inv s) : ∀ v ∈ filterMemory s, isFinite v = true := by
  obtain ⟨hp2, hp3, hp4, hpf⟩ := h.pairs
  obtain ⟨hl1i, hl1, hl2, hl3, hl4⟩ := h.latches
  have h1i := isFinite_of_le_powBits (n := 0) (by omega) hl1i
  have h1 := isFinite_of_le_powBits (n := 25) (by omega) hl1
  have h2 := isFinite_of_le_powBits (n := 50) (by omega) hl2
  have h3 := isFinite_of_le_powBits (n := 75) (by omega) hl3
  have h4 := isFinite_of_le_powBits (n := 100) (by omega) hl4
  simp [filterMemory, hp2, hp3, hp4, hpf, h1i, h1, h2, h3, h4]

/-- Settles O60: the reset state meets the invariant whatever events wait, and every step keeps it. -/
theorem filterMemoryFiniteAlongEveryRun : Obligations.FilterMemoryFiniteAlongEveryRun := by
  intro events n t hrun
  have hstart : Inv { State.reset with pending := events } := resetMeetsInvariant.of_frame rfl rfl rfl rfl rfl
  exact (run_keeps Sys2Proof.core everyStepKeepsInvariant hstart hrun).filterMemory_finite

end Sys2Proof.Machine
end

section
/-! The register map and the window (R81, R84, R86, R88, R89): what a word read and a write to a read-only register do, which
platform addresses reach CORE, and which byte of a register an offset names. -/

namespace Sys2Proof.Machine

/-! ## The register map -/

theorem mem_allRegs (r : RegName) : r ∈ allRegs := by cases r <;> decide

/-- Every offset that is neither misaligned nor unmapped starts a register (R84, R85). -/
theorem exists_regOffset_eq {off : Offset} (haligned : off.toNat % 4 = 0) (hmapped : off.toNat < 0x90) :
    ∃ r, regOffset r = off := by
  cases htarget : target off 4 with
  | none =>
    have hbad := target_eq_none.mp htarget
    omega
  | some r => exact ⟨r, (target_eq_some.mp htarget).2.symm⟩

/-! ## Reads -/

theorem memRead_regOffset (r : RegName) (s : State) :
    memRead (regOffset r) 4 s = .readDone .okay (readReg s r) := by
  rw [memRead, target_regOffset]

/-- No register holds the waiting events or the last response (log entries 1 and 2). -/
theorem readReg_with_pending_resp (s : State) (p : List PlatformEvent) (a : Option Response) (r : RegName) :
    readReg { s with pending := p, resp := a } r = readReg s r := by
  cases r <;> rfl

/-- The step of a word read at a register's offset: its word is answered, and the read has no side effect (R88). -/
theorem step_read_next {s : State} {r : RegName} {rest : List PlatformEvent}
    (hp : s.pending = .access (.read (regOffset r) 4) :: rest) :
    step s = .next { s with pending := rest, resp := some (.readDone .okay (readReg s r)) } := by
  have hread : readReg { s with pending := rest } r = readReg s r := readReg_with_pending_resp s rest s.resp r
  simp only [step, serveNext, hp, serveEvent, serveAccess, memRead_regOffset, hread, respond]

/-- Settles O8: both tables are the map's functions listed along `allRegs`, and an offset names at most one register. -/
theorem readReturnsRegister : Obligations.ReadReturnsRegister := by
  refine ⟨fun r => ?_, fun s r => ?_, fun s r rest hp => ?_, fun off haligned hmapped => ?_⟩
  · exact List.mem_map_of_mem (f := fun r => (r, regOffset r, regAccess r)) (mem_allRegs r)
  · exact List.mem_map_of_mem (f := fun r => (r, readReg s r)) (mem_allRegs r)
  · exact ⟨_, step_read_next hp, rfl, readReg_with_pending_resp s rest _⟩
  · obtain ⟨r, rfl⟩ := exists_regOffset_eq haligned hmapped
    exact ⟨r, rfl, fun r' hr' => regOffset_injective hr'⟩

/-! ## Writes to a read-only register -/

theorem writeReg_readOnly {r : RegName} (v : Word) (s : State) (h : regAccess r = .ro) : writeReg r v s = .next s := by
  rw [writeReg, h]

/-- Settles O9: the write itself leaves the state as it was, and the step answers it. -/
theorem readOnlyWriteIgnored : Obligations.ReadOnlyWriteIgnored := by
  intro s r v rest hacc hp
  exact step_write_next hp (writeReg_readOnly v _ hacc)

/-! ## Platform addresses -/

/-- BASE is a multiple of 256 (R8). -/
theorem base_mod : Config.base % 0x100 = 0 := Nat.mul_mod_right 256 Config.baseBlock

/-- In a window that starts at a multiple of 256 the distance from the start is bits 7:0 of the address (R81). -/
theorem window_low_bits {base k : Nat} (hbase : base % 0x100 = 0) (hk : k < 0x100) : (base + k) % 0x100 = k := by omega

theorem selectOffset_inside {base k : Nat} (hbase : base % 0x100 = 0) (hk : k < 0x100) :
    selectOffset base (base + k) = some (BitVec.ofNat 8 k) := by
  rw [selectOffset, if_pos (by omega), window_low_bits hbase hk]

theorem selectOffset_outside {base addr : Nat} (h : addr < base ∨ base + 0xFF < addr) :
    selectOffset base addr = none := by
  rw [selectOffset, if_neg (by omega)]

/-- Settles O13: the decoder's answer decides what both kinds of access do. -/
theorem windowSelectsOffset : Obligations.WindowSelectsOffset := by
  refine ⟨base_mod, fun addr size v s => ⟨?inside, fun hout => ?outside⟩⟩
  case inside =>
    rintro k hk rfl
    have hsel := selectOffset_inside base_mod hk
    exact ⟨window_low_bits base_mod hk, by rw [issueRead, hsel], by rw [issueWrite, hsel]⟩
  case outside =>
    have hsel := selectOffset_outside hout
    exact ⟨by rw [issueRead, hsel], by rw [issueWrite, hsel]⟩

/-! ## The bytes of the window -/

/-- The offsets of a register's four bytes do not wrap: the map ends below 0x90 (R84). -/
theorem toNat_regOffset_add (r : RegName) {k : Nat} (hk : k < 4) :
    (regOffset r + BitVec.ofNat 8 k).toNat = (regOffset r).toNat + k := by
  have hmapped := regOffset_mapped r
  rw [BitVec.toNat_add, BitVec.toNat_ofNat]
  omega

theorem bytesOfWord_getElem? (w : Word) {k : Nat} (hk : k < 4) :
    (bytesOfWord w)[k]? = some (w.extractLsb' (8 * k) 8) := by
  interval_cases k <;> rfl

/-- Settles O14: registers are aligned, so clearing bits 1:0 of the offset gives the register and these bits the byte. -/
theorem windowBytesLittleEndian : Obligations.WindowBytesLittleEndian := by
  intro s r k hk
  have haligned := regOffset_aligned r
  have hstart : ((regOffset r).toNat + k) / 4 * 4 = (regOffset r).toNat := by omega
  have hbyte : ((regOffset r).toNat + k) % 4 = k := by omega
  simp only [windowByte, toNat_regOffset_add r hk, hstart, hbyte, BitVec.ofNat_toNat, BitVec.setWidth_eq,
    regAt_regOffset, bytesOfWord_getElem? _ hk]

end Sys2Proof.Machine
end

section
/-! The encoding of commands (R120 to R127): the two fields as numbers, which words are commands and which are illegal, and
the one write that clrerr stands for. -/

namespace Sys2Proof.Machine

/-! ## The fields of a word -/

theorem toNat_opField (w : Word) : (opField w).toNat = w.toNat % 16 := by
  simp [opField]

theorem toNat_rsvField (w : Word) : (rsvField w).toNat = w.toNat / 16 := by
  rw [rsvField, BitVec.extractLsb'_toNat, Nat.shiftRight_eq_div_pow]
  omega

/-- The check of R124 as a test on the two fields. -/
theorem commandWordWellFormed_iff (w : Word) :
    commandWordWellFormed w = true ↔ rsvField w = 0 ∧ (opField w).toNat ≤ 4 := by
  rw [BitVec.toNat_eq, toNat_rsvField, toNat_opField]
  simp [commandWordWellFormed]

/-! ## Which words are commands -/

theorem decodeOp_eq_none_iff (op : BitVec 4) : decodeOp op = none ↔ 5 ≤ op.toNat := by
  revert op; decide

theorem decode_reservedBits {w : Word} (hrsv : rsvField w ≠ 0) : decode w = .illegal .reservedBits := by
  rw [decode, if_pos hrsv]

theorem decode_illegalOpcode {w : Word} (hrsv : rsvField w = 0) (hop : 5 ≤ (opField w).toNat) :
    decode w = .illegal .illegalOpcode := by
  rw [decode, if_neg (not_not.mpr hrsv), (decodeOp_eq_none_iff _).mpr hop]

theorem decode_eq_command_iff {w : Word} {i : Instr} : decode w = .command i ↔ w = encode i := by
  refine ⟨eq_encode_of_decode, ?_⟩
  rintro rfl
  exact decode_encode i

/-- The two illegal cases are the only ones: a word outside them is a command (R124). -/
theorem exists_command_of_fields {w : Word} (hrsv : rsvField w = 0) (hop : (opField w).toNat ≤ 4) :
    ∃ i, decode w = .command i := by
  cases hdec : decodeOp (opField w) with
  | none =>
    have hge := (decodeOp_eq_none_iff _).mp hdec
    omega
  | some i => exact ⟨i, by rw [decode, if_neg (not_not.mpr hrsv), hdec]⟩

theorem commandWordWellFormed_encode (i : Instr) : commandWordWellFormed (encode i) = true := by
  cases i <;> decide

theorem commandWordWellFormed_iff_exists_encode (w : Word) :
    commandWordWellFormed w = true ↔ ∃ i, w = encode i := by
  constructor
  · intro hwf
    obtain ⟨hrsv, hop⟩ := (commandWordWellFormed_iff w).mp hwf
    obtain ⟨i, hdec⟩ := exists_command_of_fields hrsv hop
    exact ⟨i, eq_encode_of_decode hdec⟩
  · rintro ⟨i, rfl⟩
    exact commandWordWellFormed_encode i

/-! ## Illegal words -/

theorem exists_illegal_of_fields {w : Word} (h : rsvField w ≠ 0 ∨ 5 ≤ (opField w).toNat) :
    ∃ why, decode w = .illegal why := by
  by_cases hrsv : rsvField w = 0
  · exact ⟨_, decode_illegalOpcode hrsv (h.resolve_left (not_not.mpr hrsv))⟩
  · exact ⟨_, decode_reservedBits hrsv⟩

theorem execute_illegal {w : Word} {why : IllegalWord} (h : decode w = .illegal why) (s : State) :
    execute w s = .next (reject .eIll w s) := by
  rw [execute, h]

/-- Settles O2: the two fields decide which case a word falls under, and each illegal case is rejected with E_ILL. -/
theorem everyWordIsOneCommandOrIllegal : Obligations.EveryWordIsOneCommandOrIllegal := by
  intro w
  refine ⟨decode_reservedBits, decode_illegalOpcode, fun _ => decode_eq_command_iff,
    commandWordWellFormed_iff_exists_encode w, fun hill s => ?_⟩
  obtain ⟨_, hdec⟩ := exists_illegal_of_fields hill
  exact execute_illegal hdec s

/-! ## The words of the opcode map -/

/-- Settles O1, by the lemma that each of the five command words decodes to its command. -/
theorem decodeInvertsEncode : Obligations.DecodeInvertsEncode := fun i _ => decode_encode i

/-- Settles O3: five words are the encodings, and of the others two have an opcode above 4 and two a reserved bit set. -/
theorem mappedWordsDecode : Obligations.MappedWordsDecode :=
  ⟨decode_encode .nop, decode_encode .init, decode_encode .setp, decode_encode .proc, decode_encode .reset,
    decode_illegalOpcode (by decide) (by decide), decode_illegalOpcode (by decide) (by decide),
    decode_reservedBits (by decide), decode_reservedBits (by decide)⟩

/-! ## The pseudo-instruction clrerr -/

/-- A STATUS write with a one at every sticky bit clears them all and keeps the mode and clamp bits (R48). -/
theorem clearSticky_all {v : Word} (h : ∀ c, v.getLsbD (causeCode c) = true) (st : Status) :
    clearSticky v st = { st with
      eCfg := false, eParam := false, eSeq := false, eNanin := false, eIll := false, nfOut := false } := by
  have h8 : v.getLsbD 8 = true := h .eCfg
  have h9 : v.getLsbD 9 = true := h .eParam
  have h10 : v.getLsbD 10 = true := h .eSeq
  have h11 : v.getLsbD 11 = true := h .eNanin
  have h12 : v.getLsbD 12 = true := h .eIll
  have h13 : v.getLsbD 13 = true := h .nfOut
  simp [clearSticky, h8, h9, h10, h11, h12, h13]

/-- The word clrerr writes (R127) has a one at every sticky bit. -/
theorem clrerr_mask_sticky (c : Cause) : (0x00003F00#32).getLsbD (causeCode c) = true := by cases c <;> rfl

/-- Settles O35: clrerr is one STATUS write, and its word clears every sticky bit. -/
theorem clrerrClearsStickyBits : Obligations.ClrerrClearsStickyBits := by
  intro s hp
  have hstep := step_write_next (r := .status) (v := 0x00003F00#32) (rest := []) hp rfl
  rw [hstep, writeStatus, clearSticky_all clrerr_mask_sticky]
  rfl

end Sys2Proof.Machine
end

section
/-! Rounding to nearest (R151) and overflow (R152): every finite value is either on the grid of the last place kept or below
the point where that grid begins, and on the grid the rounded significand is nearest, with ties to even. -/

namespace Sys2Proof.Machine

/-! ## A sign and a magnitude -/

/-- The number with a sign and a magnitude, as `scaled` reads a pattern. -/
def signed (neg : Bool) (m : Nat) : Int := if neg then -(m : Int) else m

theorem scaled_eq_signed (v : Word) : scaled v = signed (signBit v) (magnitude v) := rfl

@[simp] theorem abs_signed (neg : Bool) (m : Nat) : |signed neg m| = m := by cases neg <;> simp [signed]

theorem signed_mul (s t : Bool) (m n : Nat) : signed s m * signed t n = signed (s != t) (m * n) := by
  cases s <;> cases t <;> simp [signed]

theorem signed_mul_natCast (s : Bool) (m n : Nat) : signed s m * n = signed s (m * n) := by
  cases s <;> simp [signed]

theorem signed_not (s : Bool) (m : Nat) : signed (!s) m = -signed s m := by cases s <;> simp [signed]

theorem signed_decide_natAbs (x : Int) : signed (decide (x < 0)) x.natAbs = x := by
  unfold signed
  split
  case isTrue h => have := of_decide_eq_true h; omega
  case isFalse h => have := of_decide_eq_false (Bool.eq_false_iff.mpr h); omega

/-! ## The grid of the last place -/

/-- At the exponent place `e` a finite value is a whole number of last places, or above the subnormal range it may lie
below `2^(23 + e)`, where the significand begins. -/
theorem scaled_grid (z : Word) (e : Nat) :
    (∃ k : Int, scaled z = k * 2 ^ e) ∨ 0 < e ∧ |scaled z| < 2 ^ 23 * 2 ^ e := by
  obtain ⟨e', q, hbits, hq, hn⟩ := magBits_split z
  have hmag := magnitude_of_magBits hbits hq.le hn
  rcases le_or_gt e e' with hle | hlt
  · left
    refine ⟨signed (signBit z) (q * 2 ^ (e' - e)), ?_⟩
    have hsplit : q * 2 ^ e' = q * 2 ^ (e' - e) * 2 ^ e := by
      rw [Nat.mul_assoc, ← Nat.pow_add, Nat.sub_add_cancel hle]
    rw [scaled_eq_signed, hmag, hsplit, ← signed_mul_natCast]
    simp
  · refine .inr ⟨by omega, ?_⟩
    rw [scaled_abs, hmag]
    have : q * 2 ^ e' < 2 ^ 23 * 2 ^ e := by
      calc q * 2 ^ e' < 2 ^ 24 * 2 ^ e' := Nat.mul_lt_mul_of_pos_right hq (by positivity)
        _ = 2 ^ 23 * 2 ^ (e' + 1) := by ring
        _ ≤ 2 ^ 23 * 2 ^ e := Nat.mul_le_mul_left _ (Nat.pow_le_pow_right (by decide) hlt)
    exact_mod_cast this

/-- No whole multiple of the unit is nearer than the rounded one, and where another is as near the rounded one is even. -/
theorem roundHalfEven_nearest {num unit : Nat} (hu : 0 < unit) (k : Int) :
    let q := roundHalfEven num unit
    |(q * unit - num : Int)| ≤ |k * unit - num| ∧
      (|(q * unit - num : Int)| = |k * unit - num| → k ≠ q → q % 2 = 0) := by
  obtain ⟨hlow, hhigh, htieLow, htieHigh⟩ := roundHalfEven_spec (num := num) hu
  intro q
  have hlow' : (2 * num : Int) ≤ 2 * (q * unit) + unit := by
    have : 2 * num ≤ 2 * (q * unit) + unit := by linarith
    exact_mod_cast this
  have hhigh' : (2 * (q * unit) : Int) ≤ 2 * num + unit := by
    have : 2 * (q * unit) ≤ 2 * num + unit := by linarith
    exact_mod_cast this
  have hhalf : 2 * |(q * unit - num : Int)| ≤ unit := by
    rcases abs_cases (q * unit - num : Int) with ⟨habs, -⟩ | ⟨habs, -⟩ <;> rw [habs] <;> linarith
  rcases lt_trichotomy k q with hlt | heq | hgt
  · have hstep : (k + 1) * (unit : Int) ≤ q * unit := by gcongr; omega
    have hfar := neg_le_abs (k * unit - num : Int)
    refine ⟨by linarith, fun heq _ => htieHigh ?_⟩
    have htie : (2 * q * unit : Int) = 2 * num + unit := by linarith
    exact_mod_cast htie
  · rw [heq]
    exact ⟨le_rfl, fun _ hne => absurd rfl hne⟩
  · have hstep : (q + 1) * (unit : Int) ≤ k * unit := by gcongr; omega
    have hfar := le_abs_self (k * unit - num : Int)
    refine ⟨by linarith, fun heq _ => htieLow ?_⟩
    have htie : (2 * num : Int) = (2 * q + 1) * unit := by linarith
    exact_mod_cast htie

/-! ## Overflow -/

theorem overflowLimit_pos : 0 < overflowLimit :=
  sub_pos.mpr (pow_lt_pow_right₀ (by decide) (by decide))

/-- Up to half a last place past the largest finite value the result is finite (R152, first row). -/
theorem isFinite_roundTo_of_lt {neg : Bool} {num den : Nat} (hd : 0 < den) (h : (num : Int) < overflowLimit * den) :
    isFinite (roundTo neg num den) = true := by
  obtain ⟨hq, -⟩ := roundSignificand_bounds (num := num) hd
  obtain ⟨-, hhigh, -, -⟩ := roundHalfEven_spec (num := num) (unit := den * 2 ^ roundExp num den) (by positivity)
  have hlim : num < (2 ^ 277 - 2 ^ 252) * den := by
    unfold overflowLimit at h
    omega
  have hexp : roundExp num den ≤ 253 := by
    rcases (roundExp_spec num den).2 with he | he
    · omega
    · have hdiv : num / den < 2 ^ 277 := (Nat.div_lt_iff_lt_mul hd).mpr (by omega)
      have := (Nat.pow_lt_pow_iff_right (by decide : 1 < 2)).mp (he.trans_lt hdiv)
      omega
  rw [isFinite_iff, magBits_roundTo, roundMag, infBits]
  rcases hexp.lt_or_eq with hlt | heq
  · omega
  · rw [heq] at hq hhigh ⊢
    have hcarry : roundHalfEven num (den * 2 ^ 253) ≠ 2 ^ 24 := by
      intro hcarry
      rw [hcarry] at hhigh
      omega
    omega

theorem roundTo_eq_infOf {neg : Bool} {num den : Nat} (hd : 0 < den) (h : overflowLimit * den ≤ (num : Int)) :
    roundTo neg num den = infOf neg := by
  have hlim : (2 ^ 277 - 2 ^ 252) * den ≤ num * 1 := by
    unfold overflowLimit at h
    omega
  have hbits : roundMag (2 ^ 277 - 2 ^ 252) 1 = infBits := by decide +kernel
  have hle := roundMag_mono Nat.one_pos hd hlim
  rw [roundTo, infOf, le_antisymm (roundMag_le_infBits num den) (hbits ▸ hle)]

/-! ## Nearest -/

theorem getLsbD_zero_eq_false_iff (v : Word) : v.getLsbD 0 = false ↔ magBits v % 2 = 0 := by
  have hodd : v.getLsbD 0 = decide (v.toNat % 2 = 1) := by simp [BitVec.getLsbD, Nat.testBit_zero]
  rw [hodd, decide_eq_false_iff_not, magBits]
  omega

/-- A positive magnitude rounds to a nearest value. Below the grid the nearest value is the grid's first point, `2^23`
last places, which is at most the exact result. -/
theorem nearestEven_roundTo_false {num den : Nat} (hd : 0 < den) (hf : isFinite (roundTo false num den) = true) :
    nearestEven (roundTo false num den) num den := by
  have hmag := magnitude_roundTo hd hf
  have hbits : magBits (roundTo false num den) =
      roundExp num den * 2 ^ 23 + roundHalfEven num (den * 2 ^ roundExp num den) := by
    have := (isFinite_iff _).mp hf
    rw [magBits_roundTo] at this ⊢
    unfold roundMag at this ⊢
    omega
  have hexp := (roundExp_spec num den).2
  refine ⟨hf, fun z hz => ?_⟩
  rw [getLsbD_zero_eq_false_iff, hbits, scaled_eq_magnitude (signBit_roundTo _ _ _), hmag]
  have hnear := fun k => roundHalfEven_nearest (num := num) (unit := den * 2 ^ roundExp num den) (by positivity) k
  set e := roundExp num den
  set q := roundHalfEven num (den * 2 ^ e)
  have hq : (((q * 2 ^ e : Nat) : Int) * den) = q * ((den * 2 ^ e : Nat) : Int) := by push_cast; ring
  rw [hq]
  rcases scaled_grid z e with ⟨k, hk⟩ | ⟨hpos, hsmall⟩
  · have hkd : scaled z * den = k * ((den * 2 ^ e : Nat) : Int) := by rw [hk]; push_cast; ring
    obtain ⟨hle, heven⟩ := hnear k
    rw [hkd]
    refine ⟨hle, fun heq hne => ?_⟩
    have := heven heq (by rintro rfl; exact hne (by rw [hk]; push_cast; rfl))
    omega
  · have hstart : 2 ^ 23 * ((den * 2 ^ e : Nat) : Int) ≤ num := by
      have hnum := (Nat.le_div_iff_mul_le hd).mp (hexp.resolve_left hpos.ne')
      have : 2 ^ 23 * (den * 2 ^ e) ≤ num := by
        calc 2 ^ 23 * (den * 2 ^ e) = 2 ^ (23 + e) * den := by rw [Nat.pow_add]; ring
          _ ≤ num := hnum
      exact_mod_cast this
    have hbelow : scaled z * den < 2 ^ 23 * ((den * 2 ^ e : Nat) : Int) := by
      calc scaled z * den < 2 ^ 23 * 2 ^ e * den := by
            gcongr
            exact (le_abs_self _).trans_lt hsmall
        _ = 2 ^ 23 * ((den * 2 ^ e : Nat) : Int) := by push_cast; ring
    have hfar := neg_le_abs (scaled z * den - num : Int)
    have hfirst := (hnear (2 ^ 23)).1
    rw [abs_of_nonpos (by linarith : 2 ^ 23 * ((den * 2 ^ e : Nat) : Int) - num ≤ 0)] at hfirst
    exact ⟨by linarith, fun heq => by linarith⟩

/-! ## Signs -/

theorem abs_neg_mul_sub_neg (t unit x : Int) : |-t * unit - -x| = |t * unit - x| := by
  rw [← abs_neg]; congr 1; ring

/-- Nearness is symmetric about zero: the values are. -/
theorem nearestEven.fneg {r : Word} {x unit : Int} (h : nearestEven r x unit) :
    nearestEven (fneg r) (-x) unit := by
  obtain ⟨hf, hnear⟩ := h
  refine ⟨by simpa using hf, fun z hz => ?_⟩
  obtain ⟨hle, heven⟩ := hnear (Machine.fneg z) (by simpa using hz)
  have hflip := abs_neg_mul_sub_neg (-scaled z) unit x
  rw [neg_neg] at hflip
  rw [scaled_fneg] at hle heven
  rw [scaled_fneg, abs_neg_mul_sub_neg, hflip, getLsbD_zero_eq_false_iff, magBits_fneg, ← getLsbD_zero_eq_false_iff]
  exact ⟨hle, fun heq hne => heven heq fun hz => hne (by rw [← hz, neg_neg])⟩

theorem nearestEven.neg_unit {r : Word} {x unit : Int} (h : nearestEven r x unit) : nearestEven r (-x) (-unit) := by
  have hflip : ∀ t : Int, |t * -unit - -x| = |t * unit - x| := fun t => by
    rw [← neg_mul_comm, abs_neg_mul_sub_neg]
  simp only [nearestEven, hflip]
  exact h

theorem roundTo_true (num den : Nat) : roundTo true num den = fneg (roundTo false num den) :=
  word_ext (by simp) (by simp)

theorem nearestEven_roundTo {neg : Bool} {num den : Nat} (hd : 0 < den) (h : (num : Int) < overflowLimit * den) :
    nearestEven (roundTo neg num den) (signed neg num) den := by
  have hnonneg := nearestEven_roundTo_false hd (isFinite_roundTo_of_lt hd h)
  cases neg
  · exact hnonneg
  · rw [roundTo_true]
    exact hnonneg.fneg

/-! ## The primitives -/

/-- A sum is its exact value rounded, an exact zero with either sign. -/
theorem fadd_eq_roundTo {a b : Word} (ha : isFinite a = true) (hb : isFinite b = true) :
    ∃ neg, fadd a b = roundTo neg (scaled a + scaled b).natAbs 1 ∧
      signed neg (scaled a + scaled b).natAbs = scaled a + scaled b := by
  rw [fadd_finite ha hb]
  split
  case isTrue hzero =>
    have hround : ∀ neg, zeroOf neg = roundTo neg 0 1 := by decide
    rw [hzero]
    exact ⟨_, hround _, by simp [signed]⟩
  case isFalse => exact ⟨_, rfl, signed_decide_natAbs _⟩

/-- The three claims about one sum. -/
theorem fadd_rounds {a b : Word} (ha : isFinite a = true) (hb : isFinite b = true) :
    (|scaled a + scaled b| < overflowLimit → nearestEven (fadd a b) (scaled a + scaled b) 1) ∧
    (overflowLimit ≤ |scaled a + scaled b| → fadd a b = infOf (decide (scaled a + scaled b < 0))) ∧
    (scaled a + scaled b ≠ 0 → signBit (fadd a b) = decide (scaled a + scaled b < 0)) := by
  have hsign := signBit_fadd ha hb
  have hround := fadd_finite ha hb
  obtain ⟨neg, hfadd, hsum⟩ := fadd_eq_roundTo ha hb
  rw [Int.abs_eq_natAbs]
  refine ⟨fun h => ?_, fun h => ?_, fun h => ?_⟩
  · have hnear := nearestEven_roundTo (neg := neg) Nat.one_pos (h.trans_eq (by simp))
    rw [hsum] at hnear
    rw [hfadd]
    exact hnear
  · have hne : scaled a + scaled b ≠ 0 := by
      intro hzero
      rw [hzero] at h
      exact absurd h (not_le.mpr overflowLimit_pos)
    rw [if_neg hne] at hround
    rw [hround]
    exact roundTo_eq_infOf Nat.one_pos (le_trans (by simp) h)
  · rwa [if_neg h] at hsign

/-- Settles O36: a difference is the sum with the negated operand. -/
theorem addSubRoundToNearestEven : Obligations.AddSubRoundToNearestEven := by
  intro a b ha hb
  obtain ⟨haddNear, haddInf, haddSign⟩ := fadd_rounds ha hb
  obtain ⟨hsubNear, hsubInf, hsubSign⟩ := fadd_rounds (b := fneg b) ha (by simpa using hb)
  rw [scaled_fneg, ← sub_eq_add_neg] at hsubNear hsubInf hsubSign
  exact ⟨haddNear, haddInf, haddSign, hsubNear, hsubInf, hsubSign⟩

/-- Settles O37: the product of the signed magnitudes is the product of the magnitudes in units of 2^-298. -/
theorem mulRoundsToNearestEven : Obligations.MulRoundsToNearestEven := by
  intro a b ha hb
  rw [scaled_eq_signed a, scaled_eq_signed b, signed_mul, abs_signed, fmul_finite ha hb]
  refine ⟨fun h => ?_, fun h => ?_, signBit_roundTo _ _ _⟩
  · exact_mod_cast nearestEven_roundTo (den := 2 ^ 149) (by positivity) (by exact_mod_cast h)
  · exact roundTo_eq_infOf (by positivity) (by exact_mod_cast h)

/-- Settles O38: a negative divisor is a unit with its sign inverted. -/
theorem divRoundsToNearestEven : Obligations.DivRoundsToNearestEven := by
  intro a b ha hb hz
  have hpos := (isZero_eq_false_iff b).mp hz
  have hnum : scaled a * 2 ^ 149 = signed (signBit a) (magnitude a * 2 ^ 149) := by
    rw [← signed_mul_natCast, scaled_eq_signed]; norm_cast
  rw [hnum, abs_signed, scaled_abs, fdiv_finite ha hb hz]
  refine ⟨fun h => ?_, fun h => roundTo_eq_infOf hpos h, signBit_roundTo _ _ _⟩
  have hnear := nearestEven_roundTo (neg := signBit a != signBit b) hpos h
  cases hs : signBit b
  · rw [scaled_eq_magnitude hs]
    simpa [hs] using hnear
  · rw [hs, Bool.bne_true, signed_not] at hnear
    rw [scaled_eq_neg_magnitude hs, Bool.bne_true]
    simpa using hnear.neg_unit

end Sys2Proof.Machine
end

section
/-! Special operands (R152, R153): every NaN result is the one quiet NaN, and an infinite operand decides the result. -/

namespace Sys2Proof.Machine

/-! ## NaN results -/

theorem fadd_of_isNaN {a b : Word} (h : isNaN a = true ∨ isNaN b = true) : fadd a b = quietNaN := by
  rw [fadd, if_pos (by simpa using h)]

theorem fsub_of_isNaN {a b : Word} (h : isNaN a = true ∨ isNaN b = true) : fsub a b = quietNaN :=
  fadd_of_isNaN (by simpa using h)

theorem fmul_of_isNaN {a b : Word} (h : isNaN a = true ∨ isNaN b = true) : fmul a b = quietNaN := by
  rw [fmul, if_pos (by simpa using h)]

theorem fdiv_of_isNaN {a b : Word} (h : isNaN a = true ∨ isNaN b = true) : fdiv a b = quietNaN := by
  rw [fdiv, if_pos (by simpa using h)]

@[simp] theorem isNaN_infOf (neg : Bool) : isNaN (infOf neg) = false := by cases neg <;> decide

@[simp] theorem isNaN_zeroOf (neg : Bool) : isNaN (zeroOf neg) = false := by cases neg <;> decide

/-- Every branch of a sum but the quiet NaN gives an infinity, a zero or a rounded value. -/
theorem fadd_eq_quietNaN_or (a b : Word) : fadd a b = quietNaN ∨ isNaN (fadd a b) = false := by
  simp only [fadd]
  split_ifs <;> simp

theorem fmul_eq_quietNaN_or (a b : Word) :
    fmul a b = quietNaN ∨ isNaN (fmul a b) = false ∧ signBit (fmul a b) = (signBit a != signBit b) := by
  have hsign : ∀ neg, signBit (infOf neg) = neg := by decide
  simp only [fmul]
  split_ifs <;> simp [hsign]

theorem fdiv_eq_quietNaN_or (a b : Word) : fdiv a b = quietNaN ∨ isNaN (fdiv a b) = false := by
  simp only [fdiv]
  split_ifs <;> simp

/-! ## Infinite operands -/

theorem isNaN_of_isInf {v : Word} (h : isInf v = true) : isNaN v = false := by
  rw [isInf_iff] at h
  rw [← Bool.not_eq_true, isNaN_iff, h]; exact lt_irrefl _

theorem isZero_of_isInf {v : Word} (h : isInf v = true) : isZero v = false := by
  rw [isInf_iff] at h
  rw [← Bool.not_eq_true, isZero_iff, h]; decide

/-- An infinite pattern is the infinity of its sign. -/
theorem eq_infOf_of_isInf {v : Word} (h : isInf v = true) : v = infOf (signBit v) := by
  rw [isInf_iff] at h
  rw [infOf, ← h, packBits_fields]

theorem fadd_inf_left {a b : Word} (ha : isInf a = true) (hb : isFinite b = true) : fadd a b = a := by
  have hfadd : fadd a b = infOf (signBit a) := by
    simp [fadd, ha, isNaN_of_isInf ha, isNaN_of_finite hb, isInf_of_finite hb]
  rw [hfadd, ← eq_infOf_of_isInf ha]

theorem fadd_inf_right {a b : Word} (ha : isFinite a = true) (hb : isInf b = true) : fadd a b = b := by
  have hfadd : fadd a b = infOf (signBit b) := by
    simp [fadd, hb, isNaN_of_isInf hb, isNaN_of_finite ha, isInf_of_finite ha]
  rw [hfadd, ← eq_infOf_of_isInf hb]

theorem fsub_inf_left {a b : Word} (ha : isInf a = true) (hb : isFinite b = true) : fsub a b = a :=
  fadd_inf_left ha (by simpa using hb)

theorem fsub_inf_right {a b : Word} (ha : isFinite a = true) (hb : isInf b = true) : fsub a b = fneg b :=
  fadd_inf_right ha (by simpa using hb)

/-- A factor zero and a factor infinity have no product, in either order. -/
theorem fmul_zero_inf {a b : Word} (ha : isZero a = true) (hb : isInf b = true) :
    fmul a b = quietNaN ∧ fmul b a = quietNaN := by
  constructor <;> simp [fmul, ha, hb]

theorem fmul_inf_nonzero {a b : Word} (ha : isInf a = true) (hb : isNaN b = false) (hz : isZero b = false) :
    fmul a b = infOf (signBit a != signBit b) ∧ fmul b a = infOf (signBit a != signBit b) := by
  have hnan := isNaN_of_isInf ha
  have hzero := isZero_of_isInf ha
  constructor
  · simp [fmul, ha, hb, hz, hnan, hzero]
  · rw [bne_comm]
    simp [fmul, ha, hb, hz, hnan, hzero]

/-! ## Exact zeros -/

/-- A value taken from itself leaves +0, a zero among them (R153). -/
theorem fsub_self {a : Word} (ha : isFinite a = true) : fsub a a = posZero := by
  rw [fsub, fadd_finite ha (by simpa using ha), scaled_fneg, signBit_fneg, if_pos (add_neg_cancel _),
    Bool.and_not_self]
  rfl

/-- Settles O39, row by row. -/
theorem specialOperandResults : Obligations.SpecialOperandResults := by
  refine ⟨fun a b h => ?nanOperand, fun a b => ?nanResult, ?cancel, fun a b => fmul_zero_inf, fun a ha => ?infFinite,
    ?infInf, fun a b => fmul_inf_nonzero, fun a => fsub_self, ?zeros, fun a b hnan => ?mulSign⟩
  case nanOperand => exact ⟨fadd_of_isNaN h, fsub_of_isNaN h, fmul_of_isNaN h, fdiv_of_isNaN h⟩
  case nanResult =>
    refine ⟨fun h => ?_, fun h => ?_, fun h => ?_, fun h => ?_⟩
    · exact (fadd_eq_quietNaN_or a b).resolve_right (by simp [h])
    · exact (fadd_eq_quietNaN_or a (fneg b)).resolve_right (ne_true_of_eq_false · h)
    · exact (fmul_eq_quietNaN_or a b).resolve_right (by simp [h])
    · exact (fdiv_eq_quietNaN_or a b).resolve_right (by simp [h])
  case cancel => decide
  case infFinite =>
    exact ⟨fadd_inf_left rfl ha, fsub_inf_left rfl ha, fadd_inf_left rfl ha, fsub_inf_left rfl ha,
      fadd_inf_right ha rfl, fadd_inf_right ha rfl, fsub_inf_right ha rfl, fsub_inf_right ha rfl⟩
  case infInf => decide
  case zeros => decide
  case mulSign =>
    rcases fmul_eq_quietNaN_or a b with h | ⟨-, hsign⟩
    · rw [h] at hnan
      exact absurd hnan (by decide)
    · exact hsign

end Sys2Proof.Machine
end

section
/-! The tests are field tests, and the comparisons order the values (R155): the place of a pattern in the order and its value
in units of 2^-149 rise together. -/

namespace Sys2Proof.Machine

/-! ## The fields -/

theorem toNat_exponentBits (v : Word) : (v.extractLsb' 23 8).toNat = expField v := by
  rw [BitVec.extractLsb'_toNat, Nat.shiftRight_eq_div_pow, expField]

theorem toNat_fractionBits (v : Word) : (v.extractLsb' 0 23).toNat = fracField v := by
  rw [BitVec.extractLsb'_toNat, Nat.shiftRight_zero, fracField]

theorem exponentBits_eq_ones_iff (v : Word) : v.extractLsb' 23 8 = 0xFF#8 ↔ expField v = 0xFF := by
  rw [BitVec.toNat_eq, toNat_exponentBits]; rfl

theorem fractionBits_eq_zero_iff (v : Word) : v.extractLsb' 0 23 = 0#23 ↔ fracField v = 0 := by
  rw [BitVec.toNat_eq, toNat_fractionBits]; rfl

theorem fieldTests (v : Word) :
    (isNaN v = true ↔ v.extractLsb' 23 8 = 0xFF#8 ∧ v.extractLsb' 0 23 ≠ 0#23) ∧
    (isInf v = true ↔ v.extractLsb' 23 8 = 0xFF#8 ∧ v.extractLsb' 0 23 = 0#23) ∧
    (isFinite v = true ↔ v.extractLsb' 23 8 ≠ 0xFF#8) := by
  simp [exponentBits_eq_ones_iff, fractionBits_eq_zero_iff, isNaN, isInf, isFinite]

/-! ## The comparisons as comparisons of places -/

theorem compare_of_isNaN {a b : Word} (h : isNaN a = true ∨ isNaN b = true) :
    flt a b = false ∧ fgt a b = false ∧ feq a b = false := by
  rcases h with h | h <;> simp [flt, fgt, feq, h]

theorem flt_iff {a b : Word} (ha : isNaN a = false) (hb : isNaN b = false) :
    flt a b = true ↔ orderKey a < orderKey b := by
  simp [flt, ha, hb]

theorem feq_iff {a b : Word} (ha : isNaN a = false) (hb : isNaN b = false) :
    feq a b = true ↔ orderKey a = orderKey b := by
  simp [feq, ha, hb]

/-! ## Finite operands -/

theorem magnitude_le_iff {v w : Word} (hv : isFinite v = true) (hw : isFinite w = true) :
    magnitude v ≤ magnitude w ↔ magBits v ≤ magBits w :=
  ⟨magBits_le_of_magnitude_le hv hw, magnitude_mono⟩

/-- Two patterns of opposite signs have one value, and one place, only as the two zeros. -/
theorem scaled_le_iff {a b : Word} (ha : isFinite a = true) (hb : isFinite b = true) :
    scaled a ≤ scaled b ↔ orderKey a ≤ orderKey b := by
  have hab := magnitude_le_iff ha hb
  have hba := magnitude_le_iff hb ha
  have hza := magnitude_zero_iff a
  have hzb := magnitude_zero_iff b
  unfold scaled orderKey
  cases signBit a <;> cases signBit b <;> simp <;> omega

theorem scaled_lt_iff {a b : Word} (ha : isFinite a = true) (hb : isFinite b = true) :
    scaled a < scaled b ↔ orderKey a < orderKey b := by
  rw [← not_le, scaled_le_iff hb ha, not_le]

theorem scaled_eq_iff {a b : Word} (ha : isFinite a = true) (hb : isFinite b = true) :
    scaled a = scaled b ↔ orderKey a = orderKey b := by
  rw [le_antisymm_iff, scaled_le_iff ha hb, scaled_le_iff hb ha, ← le_antisymm_iff]

/-! ## Infinities -/

/-- Every finite place lies strictly between the places of the infinities. -/
theorem orderKey_of_finite {a : Word} (ha : isFinite a = true) :
    orderKey 0xFF800000#32 < orderKey a ∧ orderKey a < orderKey 0x7F800000#32 := by
  have hinf : orderKey 0xFF800000#32 = -(infBits : Int) ∧ orderKey 0x7F800000#32 = (infBits : Int) := by decide
  rw [isFinite_iff] at ha
  rw [hinf.1, hinf.2, orderKey]
  split <;> omega

/-- What the three comparisons say of a place strictly below another. -/
theorem compare_of_orderKey_lt {a b : Word} (ha : isNaN a = false) (hb : isNaN b = false)
    (h : orderKey a < orderKey b) :
    flt a b = true ∧ fgt a b = false ∧ flt b a = false ∧ fgt b a = true ∧ feq a b = false ∧ feq b a = false := by
  simp [fgt_eq, ← Bool.not_eq_true, flt_iff, feq_iff, ha, hb, h, h.le, h.ne, h.ne']

theorem compare_self {a : Word} (ha : isNaN a = false) : flt a a = false ∧ fgt a a = false ∧ feq a a = true := by
  simp [fgt_eq, ← Bool.not_eq_true, flt_iff, feq_iff, ha]

/-- Settles O40: each clause compares places in the order. -/
theorem comparisonsOrderValues : Obligations.ComparisonsOrderValues := by
  have hnlow : isNaN 0xFF800000#32 = false := by decide
  have hnhigh : isNaN 0x7F800000#32 = false := by decide
  refine ⟨fieldTests, fun a b => compare_of_isNaN, fun a b ha hb => ?finite, fun a ha => ?infinite, ?infinities,
    fun a ha => compare_self (isNaN_of_isInf ha)⟩
  case finite =>
    have hna := isNaN_of_finite ha
    have hnb := isNaN_of_finite hb
    rw [fgt_eq, flt_iff hna hnb, flt_iff hnb hna, feq_iff hna hnb, scaled_lt_iff ha hb, scaled_lt_iff hb ha,
      scaled_eq_iff ha hb]
    exact ⟨.rfl, .rfl, .rfl⟩
  case infinite =>
    have hna := isNaN_of_finite ha
    obtain ⟨hlow, hhigh⟩ := orderKey_of_finite ha
    obtain ⟨hlt, hgt, hlt', hgt', heq, heq'⟩ := compare_of_orderKey_lt hna hnhigh hhigh
    obtain ⟨klt, kgt, klt', kgt', keq, keq'⟩ := compare_of_orderKey_lt hnlow hna hlow
    exact ⟨hlt, hgt, klt', kgt', hlt', hgt', klt, kgt, heq, heq', keq', keq⟩
  case infinities => decide

end Sys2Proof.Machine
end

section
/-! The constants of R154: each decimal constant is its literal rounded, and K_2PI is the grid point nearest 2π. -/

namespace Sys2Proof.Machine

/-- Settles O41: closed facts about the rounding function, evaluated. -/
theorem decimalConstantsNearest : Obligations.DecimalConstantsNearest := by
  unfold Obligations.DecimalConstantsNearest
  decide

/-- K_2PI is 13176795 last places of 2^-21. -/
theorem scaled_K_2PI : scaled K_2PI = 13176795 * 2 ^ 128 := by decide

/-- Every other value is at least one last place away from K_2PI. -/
theorem scaled_K_2PI_separated (z : Word) : scaled z = scaled K_2PI ∨ (2 : ℤ) ^ 128 ≤ |scaled K_2PI - scaled z| := by
  rw [scaled_K_2PI]
  rcases scaled_grid z 128 with ⟨k, hk⟩ | ⟨-, hsmall⟩
  · rw [hk]
    rcases eq_or_ne k 13176795 with rfl | hne
    · exact .inl rfl
    · right
      have hstep : 1 ≤ |13176795 - k| := Int.one_le_abs (sub_ne_zero.mpr hne.symm)
      rw [← sub_mul, abs_mul, abs_of_pos (by positivity : (0 : ℤ) < 2 ^ 128)]
      omega
  · right
    have hlt := (le_abs_self _).trans_lt hsmall
    exact le_trans (by omega) (le_abs_self _)

/-- 2π lies within half a last place of K_2PI. -/
theorem K_2PI_error : |(scaled K_2PI : ℝ) - 2 * Real.pi * 2 ^ 149| ≤ 2 ^ 127 := by
  have hlo := Real.pi_gt_d20
  have hhi := Real.pi_lt_d20
  rw [scaled_K_2PI, abs_le]
  push_cast
  constructor <;> linarith

/-- A point within half the separation `d` of `c` is no farther from `c` than from anything `d` away from `c`. -/
theorem abs_sub_le_of_separated {c x z d : ℝ} (hc : |c - x| ≤ d / 2) (hz : d ≤ |c - z|) : |c - x| ≤ |z - x| := by
  have htri := abs_sub_le c x z
  rw [abs_sub_comm x z] at htri
  linarith

/-- Settles O42: 2π is within half a last place of K_2PI, and every other value at least a whole one away from it. -/
theorem twoPiConstantNearest : Obligations.TwoPiConstantNearest := by
  intro z _
  rcases scaled_K_2PI_separated z with heq | hfar
  · rw [heq]
  · refine abs_sub_le_of_separated (d := 2 ^ 128) (K_2PI_error.trans (by norm_num)) ?_
    exact_mod_cast hfar

end Sys2Proof.Machine
end

section
/-! The laws of TANH (R160): the wrapper case by case, what it gives whatever the free function is, that it leaves a lawful
function alone, and the reference configuration (R161). -/

namespace Sys2Proof.Machine

/-! ## Zeros and infinities as patterns -/

theorem eq_zero_of_isZero {x : Word} (h : isZero x = true) : x = 0x00000000#32 ∨ x = 0x80000000#32 := by
  rw [isZero_iff] at h
  cases hs : signBit x
  · exact .inl (word_ext hs h)
  · exact .inr (word_ext hs h)

theorem eq_inf_of_isInf {x : Word} (h : isInf x = true) : x = 0x7F800000#32 ∨ x = 0xFF800000#32 := by
  rw [isInf_iff] at h
  cases hs : signBit x
  · exact .inl (word_ext hs h)
  · exact .inr (word_ext hs h)

/-- A magnitude of at most 1 is no NaN. -/
theorem isNaN_of_magBits_le_one {v : Word} (h : magBits v ≤ magBits K_ONE) : isNaN v = false :=
  isNaN_of_finite (isFinite_of_magBits_le (by decide) h)

/-- T2 has two halves, and the bound gives both. -/
theorem TanhLaws.of_bounded {f : Word → Word} (hbound : ∀ x, isNaN x = false → magBits (f x) ≤ magBits K_ONE)
    (hpz : f 0x00000000#32 = 0x00000000#32) (hnz : f 0x80000000#32 = 0x80000000#32)
    (hpi : f 0x7F800000#32 = 0x3F800000#32) (hni : f 0xFF800000#32 = 0xBF800000#32) : TanhLaws f where
  not_nan x hx := isNaN_of_magBits_le_one (hbound x hx)
  bounded := hbound
  at_pos_zero := hpz
  at_neg_zero := hnz
  at_pos_inf := hpi
  at_neg_inf := hni

/-! ## The wrapper -/

theorem lawful_of_isZero (f : Word → Word) {x : Word} (hx : isNaN x = false) (hz : isZero x = true) :
    Config.lawful f x = x := by
  rw [Config.lawful, if_neg (by simp [hx]), if_pos hz]

theorem lawful_of_isInf (f : Word → Word) {x : Word} (hinf : isInf x = true) :
    Config.lawful f x = if signBit x then negOne else K_ONE := by
  rw [Config.lawful, if_neg (by simp [isNaN_of_isInf hinf]), if_neg (by simp [isZero_of_isInf hinf]), if_pos hinf]

theorem lawful_of_bounded {f : Word → Word} {x : Word} (hx : isNaN x = false) (hz : isZero x = false)
    (hinf : isInf x = false) (h : magBits (f x) ≤ magBits K_ONE) : Config.lawful f x = f x := by
  rw [Config.lawful, if_neg (by simp [hx]), if_neg (by simp [hz]), if_neg (by simp [hinf]), if_pos h]

/-- Settles O44: the wrapper fixes zeros and infinities and bounds the rest. -/
theorem tanhSatisfiesLaws : Obligations.TanhSatisfiesLaws :=
  TanhLaws.of_bounded (fun _ => magBits_tanh_le) (lawful_of_isZero _ rfl rfl) (lawful_of_isZero _ rfl rfl)
    (lawful_of_isInf _ rfl) (lawful_of_isInf _ rfl)

/-- Settles O45: on zeros and infinities the laws determine the value, and elsewhere the wrapper keeps a bounded one. -/
theorem everyAdmissibleTanhCovered : Obligations.EveryAdmissibleTanhCovered := by
  intro f hf x hx
  cases hz : isZero x
  case true =>
    rw [lawful_of_isZero f hx hz]
    rcases eq_zero_of_isZero hz with rfl | rfl
    · exact hf.at_pos_zero.symm
    · exact hf.at_neg_zero.symm
  case false =>
    cases hinf : isInf x
    case true =>
      rw [lawful_of_isInf f hinf]
      rcases eq_inf_of_isInf hinf with rfl | rfl
      · exact hf.at_pos_inf.symm
      · exact hf.at_neg_inf.symm
    case false => exact lawful_of_bounded hx hz hinf (hf.bounded x hx)

/-! ## The reference configuration -/

/-- A quotient of at most 1 rounds to at most 1. -/
theorem roundMag_le_one {num den : Nat} (hd : 0 < den) (h : num ≤ den) :
    roundMag (num * 2 ^ 149) den ≤ magBits K_ONE := by
  have hone : magnitude K_ONE = 2 ^ 149 := by decide
  apply roundMag_le_magBits hd (by decide)
  rw [hone, Nat.mul_comm]
  exact Nat.mul_le_mul_left _ h

theorem tanhMag_le (v : Word) : tanhMag v ≤ magBits K_ONE := by
  unfold tanhMag
  split
  case isTrue h =>
    have hsmall : 0x39000000 ≤ magBits K_ONE := by decide
    omega
  case isFalse =>
    split
    case isTrue => exact le_rfl
    case isFalse =>
      have hone : 0 < fixOne := by unfold fixOne; positivity
      exact roundMag_le_one (by omega) (by omega)

theorem tanhCR_of_not_nan {v : Word} (h : isNaN v = false) : tanhCR v = packBits (signBit v) (tanhMag v) := by
  rw [tanhCR, if_neg (by simp [h])]

theorem magBits_tanhCR_le {v : Word} (h : isNaN v = false) : magBits (tanhCR v) ≤ magBits K_ONE := by
  have hle := tanhMag_le v
  have hlt := magBits_lt K_ONE
  rw [tanhCR_of_not_nan h, magBits_packBits (by omega)]
  exact hle

/-- Settles O46: the computed quotient (e - 1) / (e + 1) is at most 1, and the ends of the range are fixed. -/
theorem referenceTanhSatisfiesLaws : Obligations.ReferenceTanhSatisfiesLaws :=
  TanhLaws.of_bounded (fun _ => magBits_tanhCR_le) (by decide) (by decide) (by decide) (by decide)

end Sys2Proof.Machine
end

section
/-! The coefficient evaluator (R181 to R186): which bound a clamp hands on and when it sets its flag, the range of the angular
cutoff, and the ranges of the two polynomials. -/

namespace Sys2Proof.Machine

/-! ## A clamp -/

theorem flt_eq_false_iff {a b : Word} (ha : isNaN a = false) (hb : isNaN b = false) :
    flt a b = false ↔ orderKey b ≤ orderKey a := by
  rw [← Bool.not_eq_true, flt_iff ha hb, not_lt]

/-- What a clamp of `v` to the bounds `lo` and `hi` can do: its result and its flag. Where the bounds cross, only the last
case is left. -/
inductive ClampCase (lo hi v : Word) : Word → Bool → Prop
  | passed (hlo : orderKey lo ≤ orderKey v) (hhi : orderKey v ≤ orderKey hi) : ClampCase lo hi v v false
  | raised (hlo : orderKey v < orderKey lo) (hhi : orderKey lo ≤ orderKey hi) : ClampCase lo hi v lo true
  | capped (hhi : orderKey hi < max (orderKey lo) (orderKey v)) : ClampCase lo hi v hi true

/-- The lower bound first, then the upper one: the shape R181 and R182 share. -/
theorem clampCase_of_ite {lo hi v c : Word} (hlo : isNaN lo = false) (hhi : isNaN hi = false) (hv : isNaN v = false)
    (hc : c = if flt v lo then lo else v) :
    ClampCase lo hi v (if fgt c hi then hi else c) (flt v lo || fgt c hi) := by
  rw [fgt_eq]
  cases hraise : flt v lo
  · rw [hraise, if_neg Bool.false_ne_true] at hc
    subst hc
    rw [flt_eq_false_iff hv hlo] at hraise
    cases hcap : flt hi c
    · exact .passed hraise ((flt_eq_false_iff hhi hv).mp hcap)
    · exact .capped (lt_max_of_lt_right ((flt_iff hhi hv).mp hcap))
  · rw [hraise, if_pos rfl] at hc
    subst hc
    rw [flt_iff hv hlo] at hraise
    cases hcap : flt hi c
    · exact .raised hraise ((flt_eq_false_iff hhi hlo).mp hcap)
    · exact .capped (lt_max_of_lt_left ((flt_iff hhi hlo).mp hcap))

section Clamp

variable {lo hi v r : Word} {flag : Bool}

theorem ClampCase.eq_of_not_clamped (h : ClampCase lo hi v r flag) (hflag : flag = false) : r = v := by
  cases h
  case passed => rfl
  all_goals cases hflag

theorem ClampCase.bound_of_clamped (h : ClampCase lo hi v r flag) (hflag : flag = true) : r = lo ∨ r = hi := by
  cases h
  case passed => cases hflag
  case raised => exact .inl rfl
  case capped => exact .inr rfl

theorem ClampCase.eq_hi_of_crossed (h : ClampCase lo hi v r flag) (hcross : orderKey hi < orderKey lo) : r = hi := by
  cases h
  case capped => rfl
  all_goals omega

theorem ClampCase.lo_le (h : ClampCase lo hi v r flag) (hbounds : orderKey lo ≤ orderKey hi) :
    orderKey lo ≤ orderKey r := by
  cases h
  case passed hlo _ => exact hlo
  case raised => exact le_rfl
  case capped => exact hbounds

/-- A value between the bounds, the bounds among them, passes. -/
theorem ClampCase.of_between (h : ClampCase lo hi v r flag) (hlo : orderKey lo ≤ orderKey v)
    (hhi : orderKey v ≤ orderKey hi) : r = v ∧ flag = false := by
  cases h
  case passed => exact ⟨rfl, rfl⟩
  all_goals omega

theorem ClampCase.of_below (h : ClampCase lo hi v r flag) (hbounds : orderKey lo ≤ orderKey hi)
    (hv : orderKey v < orderKey lo) : r = lo ∧ flag = true := by
  cases h
  case raised => exact ⟨rfl, rfl⟩
  all_goals omega

theorem ClampCase.of_above (h : ClampCase lo hi v r flag) (hv : orderKey hi < orderKey v) : r = hi ∧ flag = true := by
  cases h
  case capped => exact ⟨rfl, rfl⟩
  all_goals omega

theorem ClampCase.clamped_of_outside (h : ClampCase lo hi v r flag)
    (hv : orderKey v < orderKey lo ∨ orderKey hi < orderKey v) : flag = true := by
  cases h
  case passed => omega
  all_goals rfl

end Clamp

/-! ## The cutoff clamp -/

/-- What an admissible EPS_HZ, a valid sample rate and a cutoff that is no NaN make of the cutoff clamp (R181). -/
theorem clampCutoff_case {eps fs cut : Word} (heps : Config.epsHzAdmissible eps = true)
    (hfs : sampleRateValid fs = true) (hcut : isNaN cut = false) :
    ClampCase eps (cutoffBound fs) cut (clampCutoff eps fs cut) (cutoffClamped eps fs cut) :=
  clampCase_of_ite (isNaN_of_finite ((Config.epsHzAdmissible_iff eps).mp heps).1)
    (isNaN_of_finite (cutoffBound_le_half hfs).1) hcut rfl

theorem orderKey_of_isZero {v : Word} (h : isZero v = true) : orderKey v = 0 := by
  rw [isZero_iff] at h
  simp [orderKey, h]

/-- An infinite pattern stands below or above every finite one. -/
theorem orderKey_outside_of_isInf {v lo hi : Word} (hv : isInf v = true) (hlo : isFinite lo = true)
    (hhi : isFinite hi = true) : orderKey v < orderKey lo ∨ orderKey hi < orderKey v := by
  rw [eq_infOf_of_isInf hv]
  cases signBit v
  · exact .inr (orderKey_of_finite hhi).2
  · exact .inl (orderKey_of_finite hlo).1

/-- Settles O47: the clauses are read off the cases of the clamp; infinities and zeros stand outside the bounds. -/
theorem cutoffClampRange : Obligations.CutoffClampRange := by
  intro eps fs cut heps hfs hcut
  obtain ⟨hef, hepos⟩ := (Config.epsHzAdmissible_iff eps).mp heps
  obtain ⟨hes, hemag⟩ := (scaled_pos_iff eps).mp hepos
  obtain ⟨hhf, hhs, -⟩ := cutoffBound_le_half hfs
  obtain ⟨hsign, hle⟩ := clampCutoff_range heps hfs hcut
  have hcase := clampCutoff_case heps hfs hcut
  have hfin := isFinite_of_magBits_le hhf hle
  have hnan := isNaN_of_finite hfin
  have hen := isNaN_of_finite hef
  have hhn := isNaN_of_finite hhf
  refine ⟨⟨hfin, hsign, ?atMost⟩, hcase.eq_of_not_clamped, hcase.bound_of_clamped, fun hcross => ?crossed,
    fun hbounds => ?atLeast, fun hbounds hbound => ?atBound, fun hinf => ?infinite, fun hzero => ?zero⟩
  case atMost =>
    rw [fgt_eq, flt_eq_false_iff hhn hnan, orderKey_of_nonneg hsign, orderKey_of_nonneg hhs]
    exact_mod_cast hle
  case crossed => exact hcase.eq_hi_of_crossed ((flt_iff hhn hen).mp hcross)
  case atLeast =>
    rw [flt_eq_false_iff hhn hen] at hbounds
    exact (flt_eq_false_iff hnan hen).mpr (hcase.lo_le hbounds)
  case atBound =>
    rw [flt_eq_false_iff hhn hen] at hbounds
    rcases hbound with rfl | rfl
    · exact (hcase.of_between le_rfl hbounds).2
    · exact (hcase.of_between hbounds le_rfl).2
  case infinite => exact hcase.clamped_of_outside (orderKey_outside_of_isInf hinf hef hhf)
  case zero =>
    refine hcase.clamped_of_outside (.inl ?_)
    rw [orderKey_of_isZero hzero, orderKey_of_nonneg hes]
    exact_mod_cast hemag

/-! ## The resonance clamp -/

theorem clampResonance_case {res : Word} (hres : isNaN res = false) :
    ClampCase K_RMIN K_RMAX res (clampResonance res) (resonanceClamped res) :=
  clampCase_of_ite (by decide) (by decide) hres rfl

/-- A value from 0 to 1, -0 among them, in thousandths. -/
theorem inMillis_of_le_one {v : Word} (hpos : 0 ≤ scaled v) (hle : magBits v ≤ magBits K_ONE) :
    inMillis v 0 1000 := by
  have hone : magnitude K_ONE = 2 ^ 149 := by decide
  have habs := (le_abs_self _).trans (abs_scaled_le hle)
  rw [hone] at habs
  refine ⟨isFinite_of_magBits_le (by decide) hle, by omega, ?_⟩
  push_cast at habs
  omega

/-- Settles O48: -0 has the place of +0, so it lies between the bounds and passes. -/
theorem resonanceClampRange : Obligations.ResonanceClampRange := by
  intro res hres
  obtain ⟨hpos, hle⟩ := clampResonance_range hres
  have hcase := clampResonance_case hres
  have hmin : isNaN K_RMIN = false := by decide
  have hmax : isNaN K_RMAX = false := by decide
  refine ⟨inMillis_of_le_one hpos hle, fun hlow => ?below, fun hhigh => ?above, fun hlow hhigh => ?between, ?negZero⟩
  case below => exact hcase.of_below (by decide) ((flt_iff hres hmin).mp hlow)
  case above => exact hcase.of_above ((flt_iff hmax hres).mp hhigh)
  case between => exact hcase.of_between ((flt_eq_false_iff hres hmin).mp hlow) ((flt_eq_false_iff hmax hres).mp hhigh)
  case negZero =>
    rintro rfl
    exact (hcase.of_between (by decide) (by decide)).1

/-! ## The angular cutoff -/

/-- The clamped cutoff is at most half the sample rate, and one half is a binary32 value (R183). -/
theorem fdiv_clampCutoff_range {eps fs cut : Word} (heps : Config.epsHzAdmissible eps = true)
    (hfs : sampleRateValid fs = true) (hcut : isNaN cut = false) :
    signBit (fdiv (clampCutoff eps fs cut) fs) = false ∧
      magBits (fdiv (clampCutoff eps fs cut) fs) ≤ magBits 0x3F000000#32 := by
  obtain ⟨hhf, -, hhalf⟩ := cutoffBound_le_half hfs
  obtain ⟨hsign, hle⟩ := clampCutoff_range heps hfs hcut
  obtain ⟨hf, hfsign, -⟩ := (sampleRateValid_iff fs).mp hfs
  have hz := isZero_of_sampleRateValid hfs
  have hfin := isFinite_of_magBits_le hhf hle
  have hmag := magnitude_mono hle
  have hconst : magnitude 0x3F000000#32 = 2 ^ 148 := by decide
  constructor
  · rw [signBit_fdiv hfin hf hz, hsign, hfsign]; rfl
  · apply magBits_fdiv_le hfin hf hz (by decide)
    rw [hconst]; omega

/-- Settles O49, from the range of the clamped cutoff. -/
theorem angularCutoffRange : Obligations.AngularCutoffRange := by
  intro eps fs cut heps hfs hcut
  obtain ⟨hsign, hle⟩ := fdiv_clampCutoff_range heps hfs hcut
  exact ⟨hsign, hle, angularCutoff_range heps hfs hcut⟩

/-! ## The polynomials -/

/-- Settles O50: the computed gain stays close to the exact polynomial, and below 1 each difference takes the smaller term
from the larger. -/
theorem stageGainRange : Obligations.StageGainRange := by
  intro wc hwc
  have hgain := stageGain_gainRange hwc
  exact ⟨hgain.range, hgain.sign⟩

/-- A zero keeps its sign through a factor that has no sign bit. -/
theorem fmul_zeroOf_of_nonneg {neg : Bool} {v : Word} (hf : isFinite v = true) (hs : signBit v = false) :
    fmul (zeroOf neg) v = zeroOf neg := by
  have hzero : ∀ b, isFinite (zeroOf b) = true ∧ signBit (zeroOf b) = b ∧ magnitude (zeroOf b) = 0 := by decide
  obtain ⟨hzf, hzs, hzm⟩ := hzero neg
  have hround : roundMag 0 (2 ^ 149) = 0 := by decide
  rw [fmul_finite hzf hf, hzs, hzm, hs, Nat.zero_mul, Bool.bne_false, roundTo, hround, zeroOf]

/-- Settles O51: the computed polynomial stays close to the exact one, and it is positive, so a zero resonance keeps its
sign. -/
theorem resonancePolynomialRange : Obligations.ResonancePolynomialRange := by
  intro wc hwc
  have hf := (within_resonancePoly hwc).1
  obtain ⟨hlo, hhi⟩ := resonancePoly_range hwc
  have hs : signBit (resonancePoly wc) = false := signBit_of_value_pos (by linarith)
  refine ⟨(inMillis_iff _ _ _).mpr ⟨hf, by simpa using hlo, by simpa using hhi⟩, ?posZero, ?negZero⟩
  case posZero => exact fmul_zeroOf_of_nonneg (neg := false) hf hs
  case negZero => exact fmul_zeroOf_of_nonneg (neg := true) hf hs

/-! ## The worked example -/

/-- The angular cutoff of the worked example, 0.142475873 (R190). -/
theorem angularCutoff_workedExample : angularCutoff 0x447A0000#32 0x472C4400#32 = 0x3E11E532#32 := by decide

/-- The stage gain of the worked example, 0.132514223 (R190). -/
theorem stageGain_workedExample : stageGain 0x3E11E532#32 = 0x3E07B1CF#32 := by decide

/-- Settles O53: the clamps pass both operands, and the coefficients follow from the angular cutoff and the stage gain. -/
theorem workedExampleCoefficients : Obligations.WorkedExampleCoefficients := by
  have hacut : clampCutoff 0x3F800000#32 0x472C4400#32 0x447A0000#32 = 0x447A0000#32 := by decide
  have hares : clampResonance 0x3F000000#32 = 0x3F000000#32 := by decide
  unfold Obligations.WorkedExampleCoefficients
  simp only [cpe, hacut, hares, angularCutoff_workedExample, stageGain_workedExample]
  decide

end Sys2Proof.Machine
end

section
/-! Zeros and one as operands (R151 to R153): what a product with either is, and what adding a zero leaves. -/

namespace Sys2Proof.Machine

/-! ## The zeros -/

@[simp] theorem isFinite_zeroOf (neg : Bool) : isFinite (zeroOf neg) = true := by cases neg <;> decide

@[simp] theorem signBit_zeroOf (neg : Bool) : signBit (zeroOf neg) = neg := by cases neg <;> decide

@[simp] theorem magBits_zeroOf (neg : Bool) : magBits (zeroOf neg) = 0 := by cases neg <;> decide

@[simp] theorem magnitude_zeroOf (neg : Bool) : magnitude (zeroOf neg) = 0 := by cases neg <;> decide

@[simp] theorem scaled_zeroOf (neg : Bool) : scaled (zeroOf neg) = 0 := by cases neg <;> decide

@[simp] theorem fneg_zeroOf (neg : Bool) : fneg (zeroOf neg) = zeroOf (!neg) := by cases neg <;> decide

/-! ## Products -/

theorem fmul_zeroOf_left {neg : Bool} {v : Word} (hv : isFinite v = true) :
    fmul (zeroOf neg) v = zeroOf (neg != signBit v) := by
  have hround : roundMag 0 (2 ^ 149) = 0 := by decide
  apply word_ext
  · rw [signBit_fmul (isFinite_zeroOf neg) hv, signBit_zeroOf, signBit_zeroOf]
  · rw [magBits_fmul (isFinite_zeroOf neg) hv, magnitude_zeroOf, Nat.zero_mul, hround, magBits_zeroOf]

theorem fmul_zeroOf_right {neg : Bool} {v : Word} (hv : isFinite v = true) :
    fmul v (zeroOf neg) = zeroOf (neg != signBit v) := by
  rw [fmul_comm hv (isFinite_zeroOf neg), fmul_zeroOf_left hv]

/-- One is a left unit: a finite product is already representable, and an infinity keeps its sign. -/
theorem fmul_one_left {x : Word} (hx : isNaN x = false) : fmul K_ONE x = x := by
  have hone : isFinite K_ONE = true ∧ isZero K_ONE = false ∧ signBit K_ONE = false ∧ magnitude K_ONE = 2 ^ 149 := by
    decide
  obtain ⟨hof, hoz, hos, hom⟩ := hone
  cases hinf : isInf x
  case true =>
    rw [(fmul_inf_nonzero hinf (isNaN_of_finite hof) hoz).2, hos, Bool.bne_false, ← eq_infOf_of_isInf hinf]
  case false =>
    have hf : isFinite x = true := by rw [isFinite_eq, hx, hinf]; rfl
    rw [fmul_finite hof hf, hos, hom, Nat.mul_comm, roundTo_magnitude (by positivity) hf, Bool.false_bne, packBits_fields]

/-! ## Sums -/

theorem fadd_comm {a b : Word} (ha : isFinite a = true) (hb : isFinite b = true) : fadd a b = fadd b a := by
  rw [fadd_finite ha hb, fadd_finite hb ha, add_comm, Bool.and_comm]

/-- Two zeros add to +0 unless both are negative (R153). -/
@[simp] theorem fadd_zeroOf_zeroOf (m n : Bool) : fadd (zeroOf m) (zeroOf n) = zeroOf (m && n) := by
  cases m <;> cases n <;> decide

/-- A zero is the zero of its sign. -/
theorem eq_zeroOf_of_isZero {v : Word} (h : isZero v = true) : v = zeroOf (signBit v) :=
  word_ext (signBit_zeroOf _).symm (((isZero_iff v).mp h).trans (magBits_zeroOf _).symm)

/-- A sum with a zero of a value that is not zero is that value. -/
theorem fadd_zeroOf_of_nonzero {a : Word} (neg : Bool) (ha : isNaN a = false) (hz : isZero a = false) :
    fadd a (zeroOf neg) = a := by
  cases hinf : isInf a
  case true => exact fadd_inf_left hinf (isFinite_zeroOf neg)
  case false =>
    have hf : isFinite a = true := by rw [isFinite_eq, ha, hinf]; rfl
    have hpos := (isZero_eq_false_iff a).mp hz
    have hne : scaled a ≠ 0 := by rw [← Int.natAbs_ne_zero, scaled_natAbs]; omega
    have hsign : decide (scaled a < 0) = signBit a := by
      cases hs : signBit a
      · simp [scaled_eq_magnitude hs]
      · simpa [scaled_eq_neg_magnitude hs] using hpos
    have hround := roundTo_magnitude (neg := signBit a) Nat.one_pos hf
    rw [fadd_finite hf (isFinite_zeroOf neg), scaled_zeroOf, add_zero, if_neg hne, hsign, scaled_natAbs]
    rwa [Nat.mul_one, packBits_fields] at hround

/-- Adding a zero leaves a value as it is bit for bit, but for -0 plus +0. -/
theorem fadd_zeroOf {a : Word} {neg : Bool} (ha : isNaN a = false) (h : a ≠ zeroOf true ∨ neg = true) :
    fadd a (zeroOf neg) = a := by
  cases hz : isZero a
  case false => exact fadd_zeroOf_of_nonzero neg ha hz
  case true =>
    rw [eq_zeroOf_of_isZero hz] at h ⊢
    rw [fadd_zeroOf_zeroOf]
    cases hs : signBit a
    · rfl
    · rw [h.resolve_left (by simp [hs])]; rfl

/-- Adding a zero leaves the value as it is. -/
theorem feq_fadd_zeroOf {a : Word} (neg : Bool) (ha : isNaN a = false) : feq (fadd a (zeroOf neg)) a = true := by
  cases hz : isZero a
  case false =>
    rw [fadd_zeroOf_of_nonzero neg ha hz]
    exact (compare_self ha).2.2
  case true =>
    have hzero : ∀ m n, feq (zeroOf m) (zeroOf n) = true := by decide
    rw [eq_zeroOf_of_isZero hz, fadd_zeroOf_zeroOf]
    exact hzero _ _

end Sys2Proof.Machine
end

section
/-! The feedback drive (R216) and the tap mixer (R225, R227): where the drive product overflows, what a zero resonance gain
leaves of the drive, and which tap the unit weight selects. -/

namespace Sys2Proof.Machine

/-! ## The feedback drive -/

/-- The product `t2`, which the drive factor adds to 1. -/
theorem compensation_range {cg rg : Word} (hcg : Config.compGainAdmissible cg = true) (hrg : inMillis rg 0 1011) :
    isFinite (fmul (feedbackGain rg) cg) = true ∧ 0 ≤ scaled (fmul (feedbackGain rg) cg) := by
  obtain ⟨hk4, hk4pos⟩ := feedbackGain_range hrg
  obtain ⟨hcs, hcb⟩ := (Config.compGainAdmissible_iff cg).mp hcg
  have hcpow : magBits cg ≤ powBits (64 : ℕ) := hcb.trans (by decide)
  have hprod := magBits_fmul_le_pow (m := 3) (n := 64) (by omega) hk4 hcpow
  exact ⟨isFinite_of_le_powBits (by omega) hprod, scaled_fmul_nonneg (isFinite_of_le_powBits (n := 3) (by omega) hk4)
    (Config.isFinite_of_compGainAdmissible hcg) hk4pos hcs⟩

theorem signBit_driveGain {cg rg : Word} (hcg : Config.compGainAdmissible cg = true) (hrg : inMillis rg 0 1011) :
    signBit (driveGain cg rg) = false := by
  obtain ⟨hf, hpos⟩ := compensation_range hcg hrg
  have hone : isFinite K_ONE = true ∧ 0 < scaled K_ONE := by decide
  rw [driveGain, signBit_fadd hone.1 hf, if_neg (by omega), decide_eq_false_iff_not]
  omega

/-- The delayed term `t5` is finite. -/
theorem isFinite_feedbackTerm {rg fbr : Word} (hrg : inMillis rg 0 1011) (hfbr : magBits fbr ≤ powBits 100) :
    isFinite (fmul (feedbackGain rg) fbr) = true :=
  isFinite_of_le_powBits (n := 103) (by omega)
    (magBits_fmul_le_pow (m := 3) (n := 100) (by omega) (feedbackGain_range hrg).1 hfbr)

/-- A product with a positive factor, of an infinity or past the overflow limit, is the infinity with the other factor's sign. -/
theorem fmul_eq_infOf_of_overflow {d x : Word} (hd : isFinite d = true) (hz : isZero d = false) (hs : signBit d = false)
    (h : isInf x = true ∨ isFinite x = true ∧ overflowLimit * 2 ^ 149 ≤ |scaled d * scaled x|) :
    fmul d x = infOf (signBit x) := by
  rcases h with hinf | ⟨hf, hover⟩
  · rw [(fmul_inf_nonzero hinf (isNaN_of_finite hd) hz).2, hs, Bool.bne_false]
  · rw [(mulRoundsToNearestEven d x hd hf).2.1 hover, hs, Bool.false_bne]

/-- Settles O54: the drive factor is at least 1 and the delayed term is finite, so an infinite product stands. -/
theorem feedbackDriveNeverNan : Obligations.FeedbackDriveNeverNan := by
  intro cg rg fbr x hcg hrg hfbr hx
  obtain ⟨hdf, hdge⟩ := driveGain_range hcg hrg
  have hds := signBit_driveGain hcg hrg
  have hone : magnitude K_ONE = 2 ^ 149 := by decide
  have hmag : 2 ^ 149 ≤ magnitude (driveGain cg rg) := hone ▸ magnitude_mono hdge
  have hdz : isZero (driveGain cg rg) = false := (isZero_eq_false_iff _).mpr (lt_of_lt_of_le (by positivity) hmag)
  refine ⟨hdf, ?_, feedbackDrive_not_nan hcg hrg hfbr hx, fun hover => ?_⟩
  · rw [scaled_eq_magnitude hds]
    exact_mod_cast hmag
  · have hproduct := fmul_eq_infOf_of_overflow hdf hdz hds hover
    have hinf : ∀ neg, isInf (infOf neg) = true := by decide
    refine ⟨hproduct, ?_⟩
    rw [feedbackDrive, hproduct]
    exact fsub_inf_left (hinf _) (isFinite_feedbackTerm hrg hfbr)

/-- With RG = +0 the drive factor is 1 and the delayed term is a zero, so the drive is the input plus a zero. -/
theorem feedbackDrive_zero_gain {cg fbr x : Word} (hcg : Config.compGainAdmissible cg = true)
    (hfbr : isFinite fbr = true) (hx : isNaN x = false) :
    feedbackDrive cg (zeroOf false) fbr x = fadd x (zeroOf (!signBit fbr)) := by
  have hk4 : feedbackGain (zeroOf false) = zeroOf false := by decide
  have hcf := Config.isFinite_of_compGainAdmissible hcg
  have hone : isNaN K_ONE = false ∧ isZero K_ONE = false := by decide
  rw [feedbackDrive, driveGain, hk4, fmul_zeroOf_left hcf, fadd_zeroOf_of_nonzero _ hone.1 hone.2, fmul_one_left hx,
    fmul_zeroOf_left hfbr, fsub, fneg_zeroOf, Bool.false_bne]

/-- Settles O55: only -0 plus +0 is not the input bit for bit. -/
theorem zeroResonanceHasNoFeedback : Obligations.ZeroResonanceHasNoFeedback := by
  intro cg fbr x hcg hfbr hx
  have hdrive : feedbackDrive cg 0x00000000#32 fbr x = fadd x (zeroOf (!signBit fbr)) :=
    feedbackDrive_zero_gain hcg hfbr hx
  rw [hdrive]
  refine ⟨feq_fadd_zeroOf _ hx, fun hne => fadd_zeroOf hx (.inl hne), ?_⟩
  rintro rfl
  cases signBit fbr <;> decide

/-! ## The tap mixer -/

/-- With the weights +0, +0, +0, +0 and 1 the mix is out4 plus a zero, which is negative when no other tap is positive. -/
theorem mixTaps_top {t : Taps} (hnl : isFinite t.nl = true) (h1 : isFinite t.out1 = true)
    (h2 : isFinite t.out2 = true) (h3 : isFinite t.out3 = true) (h4 : isFinite t.out4 = true) :
    mixTaps t ⟨zeroOf false, zeroOf false, zeroOf false, zeroOf false, K_ONE⟩ =
      fadd t.out4 (zeroOf (signBit t.nl && signBit t.out1 && signBit t.out2 && signBit t.out3)) := by
  have htop : fmul t.out4 K_ONE = t.out4 := by
    rw [fmul_comm h4 (by decide), fmul_one_left (isNaN_of_finite h4)]
  simp only [mixTaps, fmul_zeroOf_right, hnl, h1, h2, h3, htop, fadd_zeroOf_zeroOf, Bool.false_bne]
  exact fadd_comm (isFinite_zeroOf _) h4

/-- Settles O56: only out4 = -0 with a product +0 beside it is not out4 bit for bit. -/
theorem mixerSelectsTopTap : Obligations.MixerSelectsTopTap := by
  intro t hnl h1 h2 h3 h4
  have hnan := isNaN_of_finite h4
  have hmix := mixTaps_top hnl h1 h2 h3 h4
  intro y allNegative
  have hy : y = fadd t.out4 (zeroOf allNegative) := hmix
  rw [hy]
  refine ⟨feq_fadd_zeroOf _ hnan, fadd_zeroOf hnan, fun hzero hneg => ?_⟩
  rw [hzero, hneg]
  decide

end Sys2Proof.Machine
end

section
/-! PROC as a whole: the accepted sample (R230), and what zero input leaves of a zero filter memory (R233). -/

namespace Sys2Proof.Machine

/-! ## The accepted sample -/

theorem exec_proc_accepted {s : State} (hready : ready s.status = true) (hin : isNaN s.pIn = false) :
    exec .proc s = .next (commitTaps (computeTaps Config.compGain Config.tanh s s.pIn)
      (mixTaps (computeTaps Config.compGain Config.tanh s s.pIn) s.wt) s) := by
  rw [exec_proc]
  rcases processSample_cases Config.compGain Config.tanh s with ⟨hr, -⟩ | ⟨-, hn, -⟩ | ⟨-, -, heq⟩
  · rw [hready] at hr; cases hr
  · rw [hin] at hn; cases hn
  · rw [heq]

theorem noteOutput_eq (y : Word) (st : Status) :
    noteOutput y st = { st with nfOut := st.nfOut || !isFinite y } := by
  cases h : isFinite y
  · rw [noteOutput_nonfinite st h, Bool.not_false, Bool.or_true]
  · rw [noteOutput_finite st h, Bool.not_true, Bool.or_false]

/-- Settles O24: the taps and the commit written out. -/
theorem procRunsDatapath : Obligations.ProcRunsDatapath := by
  intro s hinit hcvalid hin k4 drive fb nl out1 out2 out3 out4 y
  have hready : ready s.status = true := by rw [ready, hinit, hcvalid]; rfl
  rw [exec_proc_accepted hready hin, commitTaps, noteOutput_eq]
  rfl

/-! ## The zero state -/

/-- A CORE that runs from a zero filter memory on zero input (R233). -/
structure ZeroRun (s : State) : Prop where
  s1_zero : s.s1 = Stage.zero
  s2_zero : s.s2 = Stage.zero
  s3_zero : s.s3 = Stage.zero
  s4_zero : s.s4 = Stage.zero
  fbr_zero : s.fbr = zeroOf false
  input_zero : s.pIn = zeroOf false
  mode_ready : ready s.status = true
  coeffs : CoeffBounds s
  weights_finite : weightsFinite s.wt = true

/-- Five taps at +0. -/
def Taps.zero : Taps := ⟨zeroOf false, zeroOf false, zeroOf false, zeroOf false, zeroOf false⟩

/-- The sign of the mix of five taps at +0. -/
def allWeightsNegative (w : Weights) : Bool :=
  signBit w.a && signBit w.b && signBit w.c && signBit w.d && signBit w.e

theorem feedbackDrive_of_zeros {cg rg : Word} (hcg : Config.compGainAdmissible cg = true) (hrg : inMillis rg 0 1011) :
    feedbackDrive cg rg (zeroOf false) (zeroOf false) = zeroOf false := by
  have hdf := (driveGain_range hcg hrg).1
  have hk4 : isFinite (feedbackGain rg) = true := isFinite_of_le_powBits (n := 3) (by omega) (feedbackGain_range hrg).1
  rw [feedbackDrive, fmul_zeroOf_right hdf, fmul_zeroOf_right hk4, signBit_driveGain hcg hrg, fsub, fneg_zeroOf]
  exact fadd_zeroOf_zeroOf _ _

/-- A stage at +0 stays there: B0 has no sign bit, so its product is +0, and +0 plus any zero is +0. -/
theorem stageOutput_of_zeros {b0 b1 a1 : Word} (hb0 : isFinite b0 = true) (hb1 : isFinite b1 = true)
    (ha1 : isFinite a1 = true) (hs : signBit b0 = false) :
    stageOutput b0 b1 a1 (zeroOf false) Stage.zero = zeroOf false := by
  have hstage : Stage.zero = ⟨zeroOf false, zeroOf false⟩ := rfl
  simp only [stageOutput, hstage, fmul_zeroOf_right, hb0, hb1, ha1, hs, fadd_zeroOf_zeroOf]
  rfl

theorem mixTaps_zero {w : Weights} (hw : weightsFinite w = true) :
    mixTaps Taps.zero w = zeroOf (allWeightsNegative w) := by
  simp only [weightsFinite, Bool.and_eq_true] at hw
  obtain ⟨⟨⟨⟨ha, hb⟩, hc⟩, hd⟩, he⟩ := hw
  simp only [mixTaps, Taps.zero, fmul_zeroOf_left, ha, hb, hc, hd, he, fadd_zeroOf_zeroOf, Bool.false_bne,
    allWeightsNegative]

theorem ZeroRun.computeTaps_eq {s : State} (h : ZeroRun s) :
    computeTaps Config.compGain Config.tanh s s.pIn = Taps.zero := by
  have htanh : Config.tanh (zeroOf false) = zeroOf false := tanhSatisfiesLaws.at_pos_zero
  have hstage := stageOutput_of_zeros h.coeffs.b0_range.1 h.coeffs.b1_range.1 h.coeffs.a1_range.1 h.coeffs.b0_sign
  simp only [computeTaps, h.s1_zero, h.s2_zero, h.s3_zero, h.s4_zero, h.fbr_zero, h.input_zero,
    feedbackDrive_of_zeros Config.compGainAdmissible_compGain h.coeffs.rg_range, htanh, hstage, Taps.zero]

/-- One PROC on zero input writes every latch with what it held, and a zero to OUT. -/
theorem ZeroRun.exec_proc_eq {s : State} (h : ZeroRun s) :
    exec .proc s = .next { s with out := zeroOf (allWeightsNegative s.wt) } := by
  have hin : isNaN s.pIn = false := by rw [h.input_zero, isNaN_zeroOf]
  rw [exec_proc_accepted h.mode_ready hin, h.computeTaps_eq, mixTaps_zero h.weights_finite, commitTaps,
    noteOutput_finite _ (isFinite_zeroOf _)]
  obtain ⟨h1, h2, h3, h4, hfbr, -, -, -, -⟩ := h
  cases s
  subst h1 h2 h3 h4 hfbr
  rfl

theorem ZeroRun.set_out {s : State} (h : ZeroRun s) (y : Word) : ZeroRun { s with out := y } :=
  { h with coeffs := h.coeffs.of_frame rfl rfl rfl rfl }

theorem runProcs_succ {n : Nat} {s t : State} (h : exec .proc s = .next t) : runProcs (n + 1) s = runProcs n t := by
  rw [runProcs, List.replicate_succ, runCommands, h]
  rfl

theorem ZeroRun.runProcs_eq {s : State} (h : ZeroRun s) (n : Nat) :
    runProcs (n + 1) s = .next { s with out := zeroOf (allWeightsNegative s.wt) } := by
  induction n generalizing s with
  | zero => rw [runProcs_succ h.exec_proc_eq]; rfl
  | succ n ih => rw [runProcs_succ h.exec_proc_eq, ih (h.set_out _)]

/-- Settles O57, by induction on the number of PROCs: each leaves a zero run with the same weights. -/
theorem zeroInputKeepsZeroState : Obligations.ZeroInputKeepsZeroState := by
  intro s n hn h1 h2 h3 h4 hfbr hin hready hcoeffs hweights
  obtain ⟨k, rfl⟩ := Nat.exists_eq_add_of_le' hn
  have hzero : ZeroRun s := ⟨h1, h2, h3, h4, hfbr, hin, hready, hcoeffs, hweights⟩
  have hout : zeroOf (allWeightsNegative s.wt) =
      if allWeightsNegative s.wt then 0x80000000#32 else 0x00000000#32 := by
    cases allWeightsNegative s.wt <;> rfl
  rw [hzero.runProcs_eq k, hout]
  rfl

end Sys2Proof.Machine
end

section
/-! A non-finite output (R231, R306): NF_OUT reports it, and it goes nowhere, for no command reads OUT. Two states that
differ only in OUT and in the last answer stay so along every run. -/

namespace Sys2Proof.Machine

/-! ## NF_OUT -/

theorem reportedCause_proc (s : State) :
    reportedCause (encode .proc) s =
      if !ready s.status then some .eSeq
      else if isNaN s.pIn then some .eNanin
      else if isFinite (mixTaps (computeTaps Config.compGain Config.tanh s s.pIn) s.wt) then none
      else some .nfOut := rfl

/-- NF_OUT is reported by an accepted PROC whose output is not finite (R231). -/
theorem of_reportedCause_nfOut {s : State} (h : reportedCause (encode .proc) s = some .nfOut) :
    ready s.status = true ∧ isNaN s.pIn = false ∧
      isFinite (mixTaps (computeTaps Config.compGain Config.tanh s s.pIn) s.wt) = false := by
  rw [reportedCause_proc] at h
  cases hready : ready s.status
  case false => simp [hready] at h
  case true =>
    cases hin : isNaN s.pIn
    case true => simp [hready, hin] at h
    case false => exact ⟨rfl, rfl, by simpa [hready, hin] using h⟩

/-! ## States alike but for OUT -/

/-- Two states alike but for OUT and the answer of the last access. -/
def SameButOut (s t : State) : Prop := ∃ (y : Word) (r : Option Response), t = { s with out := y, resp := r }

/-- Two outcomes that both answer a next state, alike but for OUT and the last answer. -/
def NextSameButOut (o o' : Host.Outcome State Fault Refusal) : Prop :=
  ∃ s t, o = .next s ∧ o' = .next t ∧ SameButOut s t

theorem SameButOut.next {s t : State} (h : SameButOut s t) : NextSameButOut (.next s) (.next t) :=
  ⟨s, t, rfl, rfl, h⟩

/-! ## Host writes and commands -/

theorem SameButOut.respond_congr {s t : State} (h : SameButOut s t) (r r' : Response) :
    SameButOut (respond r s) (respond r' t) := by
  obtain ⟨y, q, rfl⟩ := h
  exact ⟨y, some r', rfl⟩

theorem SameButOut.writeStaging_congr {s t : State} (h : SameButOut s t) (r : RegName) (v : Word) :
    SameButOut (writeStaging r v s) (writeStaging r v t) := by
  obtain ⟨y, q, rfl⟩ := h
  exact ⟨y, q, by cases r <;> rfl⟩

theorem SameButOut.setParameters_congr {s t : State} (h : SameButOut s t) (eps : Word) :
    SameButOut (setParameters eps s) (setParameters eps t) := by
  obtain ⟨y, q, rfl⟩ := h
  refine ⟨y, q, ?_⟩
  unfold setParameters
  split_ifs <;> rfl

/-- A PROC that is accepted overwrites OUT, and one that is rejected leaves it. -/
theorem SameButOut.processSample_congr {s t : State} (h : SameButOut s t) (compGain : Word) (th : Word → Word) :
    SameButOut (processSample compGain th s) (processSample compGain th t) := by
  obtain ⟨y, q, rfl⟩ := h
  unfold processSample
  split_ifs
  · exact ⟨y, q, rfl⟩
  · exact ⟨y, q, rfl⟩
  · exact ⟨_, q, rfl⟩

/-- No command reads OUT or the last answer. -/
theorem SameButOut.exec_congr {s t : State} (h : SameButOut s t) (i : Instr) :
    NextSameButOut (exec i s) (exec i t) := by
  cases i with
  | nop => exact h.next
  | init =>
    obtain ⟨y, q, rfl⟩ := h
    rw [exec_init, exec_init]
    apply SameButOut.next
    split
    · exact ⟨posZero, q, rfl⟩
    · exact ⟨y, q, rfl⟩
  | setp => exact (h.setParameters_congr _).next
  | proc => exact (h.processSample_congr _ _).next
  | reset =>
    obtain ⟨y, q, rfl⟩ := h
    exact SameButOut.next ⟨posZero, q, rfl⟩

theorem SameButOut.execute_congr {s t : State} (h : SameButOut s t) (v : Word) :
    NextSameButOut (execute v s) (execute v t) := by
  unfold execute
  cases decode v with
  | command i => exact h.exec_congr i
  | illegal why =>
    obtain ⟨y, q, rfl⟩ := h
    exact SameButOut.next ⟨y, q, rfl⟩

theorem SameButOut.writeReg_congr {s t : State} (h : SameButOut s t) (r : RegName) (v : Word) :
    NextSameButOut (writeReg r v s) (writeReg r v t) := by
  unfold writeReg
  cases regAccess r with
  | wo => exact h.execute_congr v
  | w1c =>
    obtain ⟨y, q, rfl⟩ := h
    exact SameButOut.next ⟨y, q, rfl⟩
  | rw => exact (h.writeStaging_congr r v).next
  | ro => exact h.next

/-! ## Steps and runs -/

/-- An access may be answered differently, for a read of OUT shows the word; nothing else comes of it. -/
theorem SameButOut.serveAccess_congr {s t : State} (h : SameButOut s t) (a : Access) :
    NextSameButOut (serveAccess a s) (serveAccess a t) := by
  cases a with
  | read off size => exact (h.respond_congr _ _).next
  | write off size v =>
    simp only [serveAccess, memWrite]
    cases target off size with
    | none => exact (h.respond_congr _ _).next
    | some r =>
      obtain ⟨u, u', hu, hu', hsame⟩ := h.writeReg_congr r v
      simp only [hu, hu', answer]
      exact (hsame.respond_congr _ _).next

theorem SameButOut.step_congr {s t : State} (h : SameButOut s t) : NextSameButOut (step s) (step t) := by
  have hpending : t.pending = s.pending := by obtain ⟨y, q, rfl⟩ := h; rfl
  unfold step serveNext
  rw [hpending]
  cases s.pending with
  | nil => exact h.next
  | cons e rest =>
    have hrest : SameButOut { s with pending := rest } { t with pending := rest } := by
      obtain ⟨y, q, rfl⟩ := h
      exact ⟨y, q, rfl⟩
    cases e with
    | access a => exact hrest.serveAccess_congr a
    | hwReset => exact SameButOut.next ⟨State.reset.out, State.reset.resp, rfl⟩

theorem run_succ (M : Host.Core) {n : Nat} {s t : M.State} (h : M.step s = .next t) : M.run (n + 1) s = M.run n t := by
  rw [Host.Core.run, h]

/-- Every run keeps two states alike but for OUT and the last answer. -/
theorem SameButOut.run_congr {s t : State} (h : SameButOut s t) (n : Nat) :
    NextSameButOut (Sys2Proof.core.run n s) (Sys2Proof.core.run n t) := by
  induction n generalizing s t with
  | zero => exact h.next
  | succ n ih =>
    obtain ⟨u, u', hu, hu', hsame⟩ := h.step_congr
    rw [run_succ Sys2Proof.core hu, run_succ Sys2Proof.core hu']
    exact ih hsame

theorem SameButOut.eq_update {s t : State} (h : SameButOut s t) : t = { s with out := t.out, resp := t.resp } := by
  obtain ⟨y, q, rfl⟩ := h
  rfl

/-- A later accepted PROC gives the same output and the same filter memory. -/
theorem SameButOut.proc_congr {s t : State} (h : SameButOut s t) (hready : ready s.status = true)
    (hin : isNaN s.pIn = false) :
    ∃ v v', exec .proc s = .next v ∧ exec .proc t = .next v' ∧
      v.out = v'.out ∧ filterMemory v = filterMemory v' := by
  obtain ⟨y, q, rfl⟩ := h
  have hproc := exec_proc_accepted (s := { s with out := y, resp := q }) hready hin
  exact ⟨_, _, exec_proc_accepted hready hin, hproc, rfl, rfl⟩

/-- Settles O26: the state after the PROC and the one with another word in OUT are alike but for OUT, and every run keeps
them so. -/
theorem nonFiniteOutputOnlyNotifies : Obligations.NonFiniteOutputOnlyNotifies := by
  intro s hcause taps
  obtain ⟨hready, hin, hfin⟩ := of_reportedCause_nfOut hcause
  refine ⟨_, exec_proc_accepted hready hin, hfin, ?_, rfl, rfl, rfl, fun events n y => ?_⟩
  · rw [commitTaps_status, noteOutput_nonfinite _ hfin]
  · have hstart : ∀ t : State, SameButOut { t with pending := events } { t with out := y, pending := events } :=
      fun t => ⟨y, t.resp, rfl⟩
    obtain ⟨u, u', hu, hu', hsame⟩ := (hstart _).run_congr n
    exact ⟨u, u', hu, hu', hsame.eq_update, hsame.proc_congr⟩

end Sys2Proof.Machine
end

section
/-! The five commands (R250): the step that runs one, a table word placed before the next step, and what NOP, RESET and the
accepted INIT and SETP leave. -/

namespace Sys2Proof.Machine

/-! ## The step that runs a command -/

theorem execute_command {w : Word} {i : Instr} (h : decode w = .command i) (s : State) : execute w s = exec i s := by
  rw [execute, h]

/-- The step of a CMD write: what the word executes to, answered OKAY (R89, R250). -/
theorem step_commandWrite {s t : State} {w : Word} {rest : List PlatformEvent} (hp : s.pending = commandWrite w :: rest)
    (ht : execute w { s with pending := rest } = .next t) : step s = .next (respond (.writeDone .okay) t) :=
  step_write_next (r := .cmd) hp ht

/-- Settles O4: CMD executes the word, and the decoder says whether that runs a command or rejects the word. -/
theorem stepRunsDecodedCommand : Obligations.StepRunsDecodedCommand := by
  intro s w rest hp
  constructor
  · intro i t hdec _ hexec
    exact step_commandWrite hp ((execute_command hdec _).trans hexec)
  · intro why hdec
    exact step_commandWrite hp (execute_illegal hdec _)

/-! ## A placed table word -/

/-- A word is the four bytes it is split into (R86). -/
@[simp] theorem wordOfBytes_bytesOfWord (w : Word) : wordOfBytes (bytesOfWord w) = some w := by
  have hupper : w.extractLsb' 24 8 ++ w.extractLsb' 16 8 = w.extractLsb' 16 16 :=
    BitVec.extractLsb'_append_extractLsb'_eq_extractLsb' rfl
  have hthree : w.extractLsb' 16 16 ++ w.extractLsb' 8 8 = w.extractLsb' 8 24 :=
    BitVec.extractLsb'_append_extractLsb'_eq_extractLsb' rfl
  have hall : w.extractLsb' 8 24 ++ w.extractLsb' 0 8 = w.extractLsb' 0 32 :=
    BitVec.extractLsb'_append_extractLsb'_eq_extractLsb' rfl
  rw [bytesOfWord, wordOfBytes, hupper, hthree, hall, BitVec.extractLsb'_eq_self]

theorem decodeBytes_bytesOfWord_eq_some {w : Word} {i : Instr} (h : decodeBytes (bytesOfWord w) = some i) :
    decode w = .command i := by
  rw [decodeBytes, wordOfBytes_bytesOfWord] at h
  cases hdec : decode w with
  | command j => simpa [hdec] using h
  | illegal why => simp [hdec] at h

/-- A table word stands for a command only if the word that is placed for it decodes to that command. -/
theorem decode_of_decodeTableWord {nbits w : Nat} {i : Instr} (h : decodeTableWord nbits w = some i) :
    decode (BitVec.ofNat 32 (w % 2 ^ nbits)) = .command i := by
  unfold decodeTableWord at h
  split at h
  case isTrue => exact decodeBytes_bytesOfWord_eq_some h
  case isFalse => cases h

/-- Settles O5: the placed word is the next CMD write, and taking it off the queue gives the state it was placed in. -/
theorem placedWordRunsNext : Obligations.PlacedWordRunsNext := by
  intro s t nbits w i hdec hexec
  have hrun := execute_command (decode_of_decodeTableWord hdec) s
  exact step_commandWrite (s := s.withFetchWord nbits w) rfl (hrun.trans hexec)

/-! ## NOP and RESET -/

/-- Settles O18: the word and the meaning of NOP by evaluation, and a reserved bit makes a word illegal whatever its
opcode. -/
theorem nopChangesNothing : Obligations.NopChangesNothing :=
  ⟨rfl, exec_nop, fun _ _ hrsv => decode_reservedBits hrsv⟩

/-- Settles O27: RESET is the shared zeroing of the filter memory. -/
theorem resetZeroesFilterMemory : Obligations.ResetZeroesFilterMemory := exec_reset

/-! ## The accepted INIT -/

theorem exec_init_accepted {s : State} (hfs : sampleRateValid s.pFs = true) : exec .init s = .next (startStream s) := by
  rw [exec_init, if_pos hfs]

/-- Settles O19: the two conditions are the check of R258, and a started stream is the state written out. -/
theorem initStartsStream : Obligations.InitStartsStream := by
  intro s hfin hpos
  have hfs : sampleRateValid s.pFs = true := Bool.and_eq_true_iff.mpr ⟨hfin, hpos⟩
  exact exec_init_accepted hfs

/-! ## The accepted SETP -/

theorem exec_setp_accepted {s : State} (hinit : s.status.inited = true)
    (hvalid : setpOperandsValid s.pCut s.pRes s.pWt = true) :
    exec .setp s = .next (publish (cpe Config.epsHz s.afs s.pCut s.pRes) s) := by
  rw [exec_setp]
  rcases setParameters_cases Config.epsHz s with ⟨hi, -⟩ | ⟨-, hv, -⟩ | ⟨-, -, heq⟩
  · rw [hinit] at hi; cases hi
  · rw [hvalid] at hv; cases hv
  · rw [heq]

/-- Settles O21: the conditions are the check of R262, and the published set is the composition of R181 to R187. -/
theorem setpPublishesActiveSet : Obligations.SetpPublishesActiveSet := by
  intro s hinit hcut hres hwt hi c1 acut r1 ares wc w2 w3 w4 g pr
  have hvalid : setpOperandsValid s.pCut s.pRes s.pWt = true := by rw [setpOperandsValid, hcut, hres, hwt]; rfl
  exact exec_setp_accepted hinit hvalid

end Sys2Proof.Machine
end

section
/-! The exceptions (R300 to R311): no step stops, which accesses are bus errors, what each rejected command leaves, and that
a CMD write reports at most one cause, the one that comes first. -/

namespace Sys2Proof.Machine

/-! ## Every step answers a next state -/

theorem execute_next (v : Word) (s : State) : ∃ t, execute v s = .next t := by
  rcases execute_cases v s with ⟨i, -, heq⟩ | ⟨_, -, heq⟩
  · rw [heq]
    exact exec_next i s
  · exact ⟨_, heq⟩

theorem writeReg_next (r : RegName) (v : Word) (s : State) : ∃ t, writeReg r v s = .next t := by
  unfold writeReg
  cases regAccess r with
  | wo => exact execute_next v s
  | w1c => exact ⟨_, rfl⟩
  | rw => exact ⟨_, rfl⟩
  | ro => exact ⟨_, rfl⟩

theorem memWrite_next (off : Offset) (size : Nat) (v : Word) (s : State) : ∃ t, memWrite off size v s = .next t := by
  unfold memWrite
  cases target off size with
  | none => exact ⟨_, rfl⟩
  | some r =>
    obtain ⟨u, hu⟩ := writeReg_next r v s
    exact ⟨respond (.writeDone .okay) u, by simp only [hu, answer]⟩

theorem serveEvent_next (e : PlatformEvent) (s : State) : ∃ t, serveEvent e s = .next t := by
  cases e with
  | hwReset => exact ⟨_, rfl⟩
  | access a =>
    cases a with
    | read off size => exact ⟨_, rfl⟩
    | write off size v => exact memWrite_next off size v s

theorem step_idle {s : State} (hp : s.pending = []) : step s = .next s := by
  rw [step, serveNext, hp]

theorem step_serves {s : State} {e : PlatformEvent} {rest : List PlatformEvent} (hp : s.pending = e :: rest) :
    step s = serveEvent e { s with pending := rest } := by
  rw [step, serveNext, hp]

/-- Settles O6: an idle step leaves the state, and every event is answered a next state. -/
theorem noStepStops : Obligations.NoStepStops := by
  refine fun s => ⟨?_, step_idle⟩
  cases hp : s.pending with
  | nil => exact ⟨s, step_idle hp⟩
  | cons e rest =>
    rw [step_serves hp]
    exact serveEvent_next e _

/-! ## Bus errors -/

/-- A read that reaches no register is answered BUSERR with data 0 (R88, R308). -/
theorem step_read_busErr {s : State} {off : Offset} {size : Nat} {rest : List PlatformEvent}
    (htarget : target off size = none) (hp : s.pending = .access (.read off size) :: rest) :
    step s = .next { s with pending := rest, resp := some (.readDone .busErr 0x00000000#32) } := by
  rw [step_serves hp, serveEvent, serveAccess, memRead, htarget]
  rfl

/-- A write that reaches no register is answered BUSERR and runs no command (R89, R308). -/
theorem step_write_busErr {s : State} {off : Offset} {size : Nat} {v : Word} {rest : List PlatformEvent}
    (htarget : target off size = none) (hp : s.pending = .access (.write off size v) :: rest) :
    step s = .next { s with pending := rest, resp := some (.writeDone .busErr) } := by
  rw [step_serves hp, serveEvent, serveAccess, memWrite, htarget]
  rfl

/-- Settles O7: the three defects are those of an access that reaches no register, and any other access reaches one. -/
theorem busErrorChangesNothing : Obligations.BusErrorChangesNothing := by
  refine fun s off size v rest => ⟨fun hbad => ?_, fun hsize haligned hmapped => ?_⟩
  · have htarget := target_eq_none.mpr hbad
    exact ⟨step_read_busErr htarget, step_write_busErr htarget⟩
  · obtain ⟨r, rfl⟩ := exists_regOffset_eq haligned hmapped
    subst hsize
    refine ⟨fun hp => ⟨_, _, step_read_next hp, rfl⟩, fun hp => ?_⟩
    obtain ⟨u, hu⟩ := writeReg_next r v { s with pending := rest }
    exact ⟨_, step_write_next hp hu, rfl⟩

/-! ## Rejected commands -/

theorem exec_init_rejected {s : State} (hfs : sampleRateValid s.pFs = false) : exec .init s = .next (refuseRate s) := by
  rw [exec_init, hfs]
  rfl

theorem exec_setp_outOfSequence {s : State} (hinit : s.status.inited = false) :
    exec .setp s = .next (reject .eSeq (encode .setp) s) := by
  rw [exec_setp, setParameters, hinit]
  rfl

theorem exec_setp_badOperand {s : State} (hinit : s.status.inited = true)
    (hvalid : setpOperandsValid s.pCut s.pRes s.pWt = false) :
    exec .setp s = .next (reject .eParam (encode .setp) s) := by
  rw [exec_setp, setParameters, hinit, hvalid]
  rfl

theorem exec_proc_outOfSequence {s : State} (hready : ready s.status = false) :
    exec .proc s = .next (reject .eSeq (encode .proc) s) := by
  rw [exec_proc, processSample, hready]
  rfl

theorem exec_proc_nanInput {s : State} (hready : ready s.status = true) (hin : isNaN s.pIn = true) :
    exec .proc s = .next (reject .eNanin (encode .proc) s) := by
  rw [exec_proc, processSample, sampleValid, hready, hin]
  rfl

/-- Settles O23: the mode check comes before the operands are looked at. -/
theorem outOfSequenceRejected : Obligations.OutOfSequenceRejected :=
  fun _ => ⟨exec_setp_outOfSequence, exec_proc_outOfSequence⟩

/-- Settles O25: READY passes the mode check, and the NaN fails the operand check. -/
theorem procRejectsNanInput : Obligations.ProcRejectsNanInput := by
  intro s hinit hcvalid hin
  have hready : ready s.status = true := by rw [ready, hinit, hcvalid]; rfl
  exact exec_proc_nanInput hready hin

theorem weightsFinite_eq_false_iff (w : Weights) :
    weightsFinite w = false ↔ isFinite w.a = false ∨ isFinite w.b = false ∨ isFinite w.c = false ∨
      isFinite w.d = false ∨ isFinite w.e = false := by
  simp only [weightsFinite, Bool.and_eq_false_iff, or_assoc]

theorem setpOperandsValid_eq_false_iff (cut res : Word) (w : Weights) :
    setpOperandsValid cut res w = false ↔ isNaN cut = true ∨ isNaN res = true ∨ weightsFinite w = false := by
  simp only [setpOperandsValid, Bool.and_eq_false_iff, Bool.not_eq_false', or_assoc]

/-- Settles O22: the operands listed are those the check of R262 refuses. -/
theorem setpRejectsBadOperand : Obligations.SetpRejectsBadOperand := by
  intro s hinit hbad
  rw [← weightsFinite_eq_false_iff, ← setpOperandsValid_eq_false_iff] at hbad
  exact exec_setp_badOperand hinit hbad

/-! ## The refused sample rate -/

/-- The rates INIT refuses: zeros, negative values, infinities and NaNs (R303). -/
theorem sampleRateValid_eq_false_iff (fs : Word) :
    sampleRateValid fs = false ↔
      isZero fs = true ∨ signBit fs = true ∨ isInf fs = true ∨ isNaN fs = true := by
  have hzero : 0 < magBits fs ↔ isZero fs = false := by
    rw [← Bool.not_eq_true, isZero_iff, Nat.pos_iff_ne_zero]
  rw [← Bool.not_eq_true, sampleRateValid_iff, isFinite_eq, hzero]
  simp only [Bool.and_eq_true, Bool.not_eq_true', not_and_or, Bool.not_eq_false]
  tauto

/-- Settles O20: a refused rate leaves INITED and CVALID clear, so both commands after it fail the mode check. -/
theorem initRejectsInvalidRate : Obligations.InitRejectsInvalidRate := by
  refine fun s => ⟨sampleRateValid_eq_false_iff s.pFs, fun hfs => ?_⟩
  exact ⟨refuseRate s, exec_init_rejected hfs, rfl, rfl, exec_setp_outOfSequence rfl, exec_proc_outOfSequence rfl⟩

/-! ## The one cause a command reports -/

/-- The mode bits and the clamp flags are no sticky bits. -/
theorem stickyBit_with_modeBits (st : Status) (inited cvalid cutcl rescl : Bool) (c : Cause) :
    stickyBit { st with inited := inited, cvalid := cvalid, cutcl := cutcl, rescl := rescl } c = stickyBit st c := by
  cases c <;> rfl

theorem stickyBit_refuseRate (s : State) (c : Cause) :
    stickyBit (refuseRate s).status c = (stickyBit s.status c || decide (Cause.eCfg = c)) := by
  rw [refuseRate, reject_status, stickyBit_setSticky, stickyBit_with_modeBits]

theorem reportedCause_proc_accepted {s : State} (hready : ready s.status = true) (hin : isNaN s.pIn = false) :
    reportedCause (encode .proc) s =
      if isFinite (mixTaps (computeTaps Config.compGain Config.tanh s s.pIn) s.wt) then none else some .nfOut := by
  rw [reportedCause_proc, hready, hin]
  rfl

/-- The sticky bits after a command: those set before it, and that of the cause it reports (R307). -/
theorem CommandEffect.stickyBit_eq {w : Word} {s t : State} (h : CommandEffect w s t) (c : Cause) :
    stickyBit t.status c = (stickyBit s.status c || decide (reportedCause w s = some c)) := by
  have hsilent (hnone : reportedCause w s = none) (hkeep : stickyBit t.status c = stickyBit s.status c) :
      stickyBit t.status c = (stickyBit s.status c || decide (reportedCause w s = some c)) := by
    simp [hnone, hkeep]
  cases h with
  | rejected k hk hcfg hnf => simp [hk, stickyBit_setSticky]
  | rateRefused hw hfs =>
    rw [stickyBit_refuseRate, hw, reportedCause_init, hfs]
    simp
  | nop hw => exact hsilent (by rw [hw]; rfl) rfl
  | started hw hfs =>
    exact hsilent (by rw [hw, reportedCause_init, if_pos hfs]) (stickyBit_with_modeBits s.status _ _ _ _ c)
  | published hw hinit hvalid =>
    exact hsilent (by rw [hw, reportedCause_setp, hinit, hvalid]; rfl) (stickyBit_with_modeBits s.status _ _ _ _ c)
  | processed hw hready hin =>
    rw [hw, reportedCause_proc_accepted hready hin, commitTaps_status, stickyBit_noteOutput]
    cases isFinite (mixTaps (computeTaps Config.compGain Config.tanh s s.pIn) s.wt) <;> simp [eq_comm (a := c)]
  | cleared hw => exact hsilent (by rw [hw]; rfl) rfl

/-- Settles O28: every CMD write answers a next state, and its sticky bits are those of what a command can leave. -/
theorem oneCauseInPriorityOrder : Obligations.OneCauseInPriorityOrder := by
  intro w s
  obtain ⟨t, ht⟩ := execute_next w s
  exact ⟨t, ht, (execute_effect ht).stickyBit_eq⟩

end Sys2Proof.Machine
end

section
/-! Reset and staging (R340 to R351): what a hardware reset restores, which commands a fresh CORE runs, and that PROC looks at
no staging register but P_IN. -/

namespace Sys2Proof.Machine

/-! ## Hardware reset -/

/-- A served hardware reset leaves the reset state, with the events after it still waiting (R340). -/
theorem step_hwReset {s : State} {rest : List PlatformEvent} (hp : s.pending = .hwReset :: rest) :
    step s = .next { State.reset with pending := rest } := by
  rw [step_serves hp]
  rfl

/-- The two parameter registers read the instance's constants in every state (R50, R342). -/
theorem readReg_parameter_eq {r : RegName} (hr : r = .cgain ∨ r = .epshz) (s t : State) : readReg s r = readReg t r := by
  rcases hr with rfl | rfl <;> rfl

/-- Settles O16: no register shows the waiting events, so all of them read as in the reset state. -/
theorem hardwareResetRestoresAll : Obligations.HardwareResetRestoresAll := by
  intro s rest hp
  have hread (r : RegName) : readReg { State.reset with pending := rest } r = readReg State.reset r :=
    readReg_with_pending_resp State.reset rest State.reset.resp r
  exact ⟨_, step_hwReset hp, hread, readReg_parameter_eq (.inl rfl) _ s, readReg_parameter_eq (.inr rfl) _ s, rfl, rfl⟩

/-! ## A fresh CORE -/

/-- The +0 that P_FS holds after a hardware reset is no sample rate (R347). -/
theorem sampleRateValid_reset : sampleRateValid State.reset.pFs = false := by decide

/-- Settles O17: the rate +0 is refused, the clear mode bits fail the checks of SETP and PROC, and RESET zeroes a filter
memory that is zero already. -/
theorem freshCoreNeedsSampleRate : Obligations.FreshCoreNeedsSampleRate :=
  ⟨exec_init_rejected sampleRateValid_reset, exec_setp_outOfSequence rfl, exec_proc_outOfSequence rfl, exec_nop _,
    exec_reset _⟩

/-! ## What is staged for INIT and SETP -/

/-- PROC carries P_FS, P_CUT, P_RES and P_WTA to P_WTE along unread, whether it rejects or processes the sample (R351). -/
theorem processSample_with_staged (compGain : Word) (th : Word → Word) (s : State) (fs cut res : Word) (w : Weights) :
    processSample compGain th { s with pFs := fs, pCut := cut, pRes := res, pWt := w } =
      { processSample compGain th s with pFs := fs, pCut := cut, pRes := res, pWt := w } := by
  unfold processSample
  split_ifs
  · rfl
  · rfl
  · rfl

/-- Settles O34: PROC is one call of `processSample`, which does not read these registers. -/
theorem stagedParametersInvisibleToProc : Obligations.StagedParametersInvisibleToProc := by
  intro s t fs cut res w hproc
  rw [exec_proc] at hproc
  cases hproc
  rw [exec_proc, processSample_with_staged]

end Sys2Proof.Machine
end
